-- ==== Sys2Proof/Word.lean ====
section
/-! DEFINITION. The words SYNCACC computes with and the plainest arithmetic on them (spec/00_scope.md R6, R8, R9).
Bits are numbered from 0 at the least significant bit (R8); `sext_32` is `BitVec.toInt`, `zext` is `BitVec.toNat`,
`wrap_32` and `to_s32` are `BitVec.ofInt 32`. -/

namespace Sys2Proof

/-- A 32-bit register or port word: the width of `ACC_W`, `ARG_W` and `OUT_W` of R6 on this hardware. -/
abbrev Word := BitVec 32

/-- A table position 0..127: the width of `POS_W` of R6 on this hardware. -/
abbrev Position := BitVec 7

/-- A command word: two opcode bits above 32 argument bits (R54). -/
abbrev CommandWord := BitVec 34

/-- R9: clamp(x, lo, hi) = min(max(x, lo), hi), on integers. -/
def clamp (x lo hi : Int) : Int := min (max x lo) hi

/-- R9: `to_sN(x)`, the two's-complement word of n bits whose bit pattern is x mod 2^n, for any integer x. -/
abbrev toS (n : Nat) (x : Int) : BitVec n := BitVec.ofInt n x

/-- R9: `to_s32(x)`. -/
def toS32 (x : Int) : Word := toS 32 x

end Sys2Proof
end

