-- ==== Sys2Proof/Config.lean ====
section
/-! DEFINITION. The constants that fix the block (spec/00_scope.md R6) and the values the spec leaves free.

R32: the constants are no state, no command changes them, and the step takes all of them as parameters. The values, and
`ARG_W`, are the fields of the argument `Params`, with R6's values as their defaults, and `block` is this hardware. The
widths of the registers, `POS_W` (and with it `TABLE_LEN`, which is 2^`POS_W`), `ACC_W` and `OUT_W`, are the parameters of
the type `Machine.State.At`, of which every operation, the edge and the step are functions; `Machine.State` is that type
at R6's widths. R5: the source's literals are taken as normative (DESIGN CHOICE of the spec, D30; log entry 9). -/

namespace Sys2Proof.Config

/-- R6 `TABLE_LEN`: the number of table positions, for positions of `POS_W` bits. -/
abbrev tableLen (posW : Nat) : Nat := 2 ^ posW

/-- R6, R32: the constants that no register's width tells. The defaults are the values this hardware has. -/
structure Params where
  /-- R6 `ARG_W`: the width of the command argument. -/
  argW : Nat := 32
  /-- R6 `FRAC`: the fractional bits of `acc`, `step` and the output word. -/
  frac : Nat := 24
  /-- R6 `VAR_MAX`: the largest variant. -/
  varMax : Nat := 59
  /-- R6 `STEP_BASE`: the step of variant 0, 2^24. -/
  stepBase : Nat := 16777216
  /-- R6 `STEP_INC`: the step increment of one variant. -/
  stepInc : Nat := 1441792
  /-- R6 `SYNC_BIT`: the bit of the sum that signals a sync. -/
  syncBit : Nat := 31
  /-- R6 `OUT_OFFSET`: the output offset, in table units. -/
  outOffset : Int := -64
  /-- R6 `RESET_STEP` is the step of this variant (the spec's decision D9, its parameter U5; log entry 4). -/
  resetVariant : Nat := 0
deriving DecidableEq, Repr

/-- R6: this hardware. -/
abbrev block : Params := {}

/-- R6 `RESET_STEP`, the value of `step` after hardware reset: by its form a legal step value, as U5 restricts it to. -/
def Params.resetStep (k : Params) : Nat := k.stepBase + k.stepInc * min k.resetVariant k.varMax

/-- R6: the word value of `OUT_OFFSET`, -2^30 on this hardware. -/
def Params.outOffsetWord (k : Params) : Int := k.outOffset * 2 ^ k.frac

/-- R30, R72, R85: out(0), the output word that every reset writes, 0xC000_0000 on this hardware. -/
def Params.outAtZero {outW : Nat} (k : Params) : BitVec outW := toS outW k.outOffsetWord

/-- R27, R30, U4: what hardware reset and the end of a walk leave in `tgt` is unspecified. The n-th free value; no body,
so nothing can be proved of it (log entry 7). -/
opaque unspecifiedTgt : (posW : Nat) → Nat → BitVec posW

/-- R30, R56, U3, U4: what `rsp_data` holds after hardware reset, and after it has been taken, is unspecified. The n-th
free value; no body, so nothing can be proved of it (log entry 7). -/
opaque unspecifiedRspData : (outW : Nat) → Nat → BitVec outW

end Sys2Proof.Config
end

