-- ==== Sys2Proof/Syntax.lean ====
section
/-! DEFINITION. The three commands (spec/30_encoding.md R57) and the lines of the assembler (R60, R61). -/

namespace Sys2Proof

/-- The commands of the opcode map (R57), one constructor per row of spec/opcode_table.json. The argument is kept as
the 32 bits of the port; what is read of it is said by R55 (Machine/Operands.lean). -/
inductive Instr where
  /-- `SETWAVE`, op 01 (R70): select the variant that the argument, read as two's complement, clamps to. -/
  | setwave (arg : Word)
  /-- `GET`, op 10 (R80): the waveform value at the position in the argument's low seven bits. -/
  | get (arg : Word)
  /-- `RESET`, op 11 (R72): restart at position 0, the variant kept. It has no operand: R55 has it ignore all 32
  argument bits, and R60's disassembler prints it alone whatever they are (log entry 19). -/
  | reset
deriving DecidableEq, Repr

/-- A line of the command-stream assembler (R60) or a pseudo-instruction (R61), with its immediate as an integer. -/
inductive AsmLine where
  /-- `SETWAVE <imm>` (R60). -/
  | setwave (imm : Int)
  /-- `GET <imm>` (R60). -/
  | get (imm : Int)
  /-- `RESET` (R60). -/
  | reset
  /-- `GETPAIR <imm>`: `GET <imm>` then `GET <imm>+1` (R61). -/
  | getpair (imm : Int)
  /-- `RESTART`: an alias of RESET (R61). -/
  | restart
deriving DecidableEq, Repr

end Sys2Proof
end

