-- ==== Sys2Proof/WellFormed.lean ====
section
/-! DEFINITION. What is well-formed. R59: every argument value of a command is legal, so an Instr, whose argument is
32 bits by its type, is always well-formed. The checks that can fail are the assembler's (R60, R61): an immediate must
lie in -2^31..2^31-1, and so must the successor that GETPAIR queries. -/

namespace Sys2Proof

/-- R59: "Every argument value is legal." -/
def Instr.wellFormed : Instr → Bool
  | .setwave _ => true
  | .get _ => true
  | .reset => true

/-- R60: the immediates the assembler accepts, -2^31..2^31-1. -/
def immInRange (imm : Int) : Bool := decide (-2147483648 ≤ imm ∧ imm ≤ 2147483647)

/-- R60, R61: the lines the assembler accepts. -/
def AsmLine.wellFormed : AsmLine → Bool
  | .setwave imm => immInRange imm
  | .get imm => immInRange imm
  | .reset => true
  | .getpair imm => immInRange imm && immInRange (imm + 1)
  | .restart => true

end Sys2Proof
end

