-- ==== Sys2Proof/Decode.lean ====
section
/-! DEFINITION. The command word's fields (spec/30_encoding.md R54), the opcode map (R57, R58), the decoder, and after
it the encoder. The block has no bytes (20_memory.md R41): what is decoded is the 34-bit word of the command port
(log entry 1). -/

namespace Sys2Proof

/-- Why the decoder gives no instruction. -/
inductive DecodeError where
  /-- op = 00, the one reserved opcode (R58). -/
  | reservedOpcode
deriving DecidableEq, Repr

/-- R54: `c[33:32]`. -/
def opField (c : CommandWord) : BitVec 2 := c.extractLsb' 32 2

/-- R54: `c[31:0]`. -/
def argField (c : CommandWord) : Word := c.extractLsb' 0 32

/-- R54: `c = {cmd_op[1:0], cmd_arg[31:0]}`. -/
def commandWord (op : BitVec 2) (arg : Word) : CommandWord := op ++ arg

/-- R57: the opcode map. A decoder looks at `op` alone; op 00 is rejected by name (R58). -/
def decode (c : CommandWord) : Except DecodeError Instr :=
  if opField c = 1#2 then .ok (.setwave (argField c))
  else if opField c = 2#2 then .ok (.get (argField c))
  else if opField c = 3#2 then .ok .reset
  else .error .reservedOpcode

/-- R57: the opcode of a command. -/
def opcodeOf : Instr → BitVec 2
  | .setwave _ => 1#2
  | .get _ => 2#2
  | .reset => 3#2

/-- R54, R60: the argument bits of a command. RESET is written with argument 0. -/
def argOf : Instr → Word
  | .setwave arg => arg
  | .get arg => arg
  | .reset => 0#32

/-- The encoder: the command word of a command (R54, R57). -/
def encode (i : Instr) : CommandWord := commandWord (opcodeOf i) (argOf i)

/-- R57, spec/opcode_table.json: the `match` column. -/
def rowMatch : Instr → CommandWord
  | .setwave _ => 0x100000000#34
  | .get _ => 0x200000000#34
  | .reset => 0x300000000#34

/-- R57, spec/opcode_table.json: the `mask` column, the same for every row. -/
def rowMask : CommandWord := 0x300000000#34

/-- The command word on the port's 34 wires, from an instruction numbered as the opcode table numbers it, of which
nbits are given; bits past the 34 wires are not there to be read (log entry 1). -/
def tableCommandWord (nbits w : Nat) : CommandWord := BitVec.ofNat 34 (w % 2 ^ nbits)

/-- What the decoder gives for the opcode table's word w. -/
def decodeTableWord (nbits w : Nat) : Option Instr :=
  match decode (tableCommandWord nbits w) with
  | .ok i => some i
  | .error _ => none

end Sys2Proof
end

