-- ==== Sys2Proof/Machine/Operands.lean ====
section
/-! DEFINITION. Operand assembly (spec/30_encoding.md R55): every way a command reads its argument. RESET reads none. -/

namespace Sys2Proof.Machine

open Config (Params)

variable {argW posW : Nat}

/-- R6, R32: the argument as `ARG_W` bits, of the port's 32: all of them on this hardware. That they are sign-extended
or truncated at another `ARG_W`, of which the spec does not speak, is the model's choice (DESIGN CHOICE, log entry 9). -/
def portArg (k : Params) (arg : Word) : BitVec k.argW := arg.signExtend k.argW

/-- R55: SETWAVE reads `variant_in = sext_32(arg)`, all bits of the argument. -/
def variantIn (arg : BitVec argW) : Int := arg.toInt

/-- R71: the variant is clamped to 0..`VAR_MAX`. -/
def clampVariant (k : Params) (x : Int) : Nat := (clamp x 0 k.varMax).toNat

/-- R55, R71: the variant a SETWAVE argument selects. -/
def variantOf (k : Params) (arg : BitVec argW) : Nat := clampVariant k (variantIn arg)

/-- R55, R82: GET reads `p = arg[6:0]`, as many bits as a position has. At an `ARG_W` below `POS_W`, where there are not
that many and the spec does not say how a position is formed, the missing upper bits are 0: the model's choice (DESIGN
CHOICE, log entry 9). -/
def positionOf (arg : BitVec argW) : BitVec posW := arg.extractLsb' 0 posW

end Sys2Proof.Machine
end

