-- ==== Sys2Proof/Machine/State.lean ====
section
/-! DEFINITION. The state of the block as plain data: the six architectural registers (spec/10_state.md R20), the hidden
registers of the reference implementation (R27, R52, R56), and the host's side of the ports. There is no memory, no
flag, no mode and no exception register to hold (R26, R40, R100, R105). -/

namespace Sys2Proof.Machine

/-- R27, R124: the control state. -/
inductive Fsm where
  /-- No GET is walking. -/
  | idle
  /-- A GET is walking towards `tgt`. -/
  | walk
deriving DecidableEq, Repr

/-- One sample of the input ports of R50 (`clk` is the edge itself). -/
structure Pins where
  /-- Synchronous reset, active high (R115). -/
  rst : Bool
  /-- The host offers a command (R53). -/
  cmdValid : Bool
  /-- The offered opcode (R57). -/
  cmdOp : BitVec 2
  /-- The offered argument (R55). -/
  cmdArg : Word
  /-- The host takes the response (R56). -/
  rspReady : Bool
deriving DecidableEq, Repr

/-- The output ports of R50, with output words of `OUT_W` bits. -/
structure PortOutputs (outW : Nat) where
  cmdReady : Bool
  rspValid : Bool
  rspData : BitVec outW
deriving DecidableEq, Repr

/-- The registers of the block and the host's side of its ports. The widths of the registers are R6's constants `POS_W`
(`TABLE_LEN` is 2^`POS_W`), `ACC_W` and `OUT_W`, parameters of the type: the operations, the edge and the step are
functions of the state at any widths (R32). -/
structure State.At (posW accW outW : Nat) where
  /-- R21: the per-position increment of `acc`, 24 fractional bits. -/
  step : BitVec accW
  /-- R22: the phase accumulator, 24 fractional bits. -/
  acc : BitVec accW
  /-- R23, R24: the position `acc` stands for, and the newer cache entry's position. -/
  lastPos : BitVec posW
  /-- R24: the newer cache entry's output word. -/
  lastVal : BitVec outW
  /-- R24: the older cache entry's position. -/
  prevPos : BitVec posW
  /-- R24: the older cache entry's output word. -/
  prevVal : BitVec outW
  /-- R27 (hidden): the control state. -/
  fsm : Fsm
  /-- R27 (hidden): the walk target; no meaning while `fsm = IDLE`. -/
  tgt : BitVec posW
  /-- R27, R56 (hidden): the response register; no meaning while `rsp_valid = 0`. -/
  rspData : BitVec outW
  /-- R27, R56 (hidden): a GET result waits to be taken. -/
  rspValid : Bool
  /-- R52 (hidden): `rst` as sampled at the previous edge. -/
  rstQ : Bool
  /-- The model's own (log entry 2): the samples of the input ports to come, the next edge's first. -/
  inputs : List Pins
  /-- The model's own (log entry 15): the response words the host has taken, oldest first (R132). -/
  observed : List (BitVec outW)
  /-- The model's own (log entry 7): how many free values `rsp_data` has taken. -/
  rspDraws : Nat
  /-- The model's own (log entry 7): how many free values `tgt` has taken. -/
  tgtDraws : Nat
deriving DecidableEq, Repr

/-- The state of this hardware: the widths have R6's values, `POS_W` 7, `ACC_W` 32 and `OUT_W` 32. -/
abbrev State := State.At 7 32 32

/-- Why the machine stops with a fault: never. The spec gives SYNCACC no exception and no failure mode (R100, R104), so
the type has no constructor (safe: no fault can hide a behaviour). -/
inductive Fault
deriving DecidableEq, Repr

/-- Why a step has no meaning. -/
inductive Refusal where
  /-- Raised by `exec` for an instruction of the table that has no meaning yet; no arm raises it in this model. Safe:
  the machine stops. -/
  | notModelled (mnemonic : String)
  /-- Raised by `step` and `clockEdge` for an accepted command with op 00, which R64 has a model refuse. Safe: no claim
  about a command stream that contains such a word is provable. -/
  | reservedOpcode
deriving DecidableEq, Repr

/-- The state after hardware reset (R30, R115, R117) of a block with constants k. `rst_q` is 1 right after an edge
with `rst = 1` (R52, R116; log entry 8). `tgt` and `rsp_data`, which R30 leaves unspecified, start at 0 (DESIGN CHOICE,
log entries 5 and 6). -/
def State.resetAt {posW accW outW : Nat} (k : Config.Params) : State.At posW accW outW where
  step := BitVec.ofNat _ k.resetStep
  acc := 0#_
  lastPos := 0#_
  lastVal := k.outAtZero
  prevPos := 0#_
  prevVal := k.outAtZero
  fsm := .idle
  tgt := 0#_
  rspData := 0#_
  rspValid := false
  rstQ := true
  inputs := []
  observed := []
  rspDraws := 0
  tgtDraws := 0

/-- The same for this hardware with the step of variant v as its `RESET_STEP`, as U5 of 93_implementation_defined.md
allows (log entry 4). -/
def State.resetWith (v : Nat) : State := State.resetAt { resetVariant := v }

/-- R117: the initial state of every run. -/
def State.reset : State := State.resetAt Config.block

end Sys2Proof.Machine
end

