-- ==== Sys2Proof/Machine/Flags.lean ====
section
/-! DEFINITION. The block has no flags (spec/10_state.md R26, 00_scope.md R12). The one condition it computes, the sync
event, is a transient value inside a walk step and is never stored. -/

namespace Sys2Proof.Machine

/-- R86: bit `SYNC_BIT` of `wrap_32(a + s)`, the sum in `ACC_W` bits, the sync event. That there is none at a `SYNC_BIT`
that the sum does not have is the model's choice (DESIGN CHOICE, log entry 9). -/
def syncEvent {accW : Nat} (k : Config.Params) (s a : BitVec accW) : Bool := (a + s).getLsbD k.syncBit

end Sys2Proof.Machine
end

