-- ==== Sys2Proof/Machine/Waveform.lean ====
section
/-! DEFINITION. The pure functions of the waveform: the step-size calculator (spec/40_variant_selection.md R70), the walk
step function (41_position_query.md R86), the accumulator after n walk steps (10_state.md R28), the output quantizer
(R92), and what the derived laws speak of (R25, R89, R91, R93). -/

namespace Sys2Proof.Machine

open Config (Params)

variable {accW outW : Nat}

/-- R70: `STEP_BASE + v * STEP_INC`, as a word of `ACC_W` bits (the factors stand in the order in which the kernel
computes with an open `v`). That a value too wide for `ACC_W`, which R6's constants do not have, wraps is the model's
choice (DESIGN CHOICE, log entry 9). -/
def stepSize (k : Params) (v : Nat) : BitVec accW := BitVec.ofNat _ (k.stepBase + k.stepInc * v)

/-- R21: the legal values of `step`, exactly the step sizes, 60 on this hardware. -/
abbrev LegalStep (k : Params) (s : BitVec accW) : Prop := ∃ v, v < k.varMax + 1 ∧ s = stepSize k v

/-- R25: the variant, recovered from `step`. -/
def variantOfStep (k : Params) (s : BitVec accW) : Nat := (s.toNat - k.stepBase) / k.stepInc

/-- R86: the walk step function; a sync forces 0 and discards the overflowed sum. -/
def nx (k : Params) (s a : BitVec accW) : BitVec accW := if syncEvent k s a then 0#_ else a + s

/-- R28: `A(s, n)`, the accumulator reached from 0 by n walk steps. -/
def accAfter (k : Params) (s : BitVec accW) : Nat → BitVec accW
  | 0 => 0#_
  | n + 1 => nx k s (accAfter k s n)

/-- R92: the output quantizer `to_s32(a - 2^30)`. At another `OUT_W` it is `to_sN` of that width, the model's choice
(DESIGN CHOICE, log entry 9). -/
def quantize (k : Params) (a : BitVec accW) : BitVec outW := toS outW (a.toNat + k.outOffsetWord)

/-- R92: the same as bits, `{~a[30], ~a[30], a[29:0]}`, a form that R6's constants have; the two agree for
a < 2^31. -/
def quantizeBits (a : Word) : Word :=
  BitVec.ofBool (!a.getLsbD 30) ++ BitVec.ofBool (!a.getLsbD 30) ++ a.extractLsb' 0 30

/-- R93: the real number an output word stands for, `sext_32(w) * 2^-24`. -/
def realValue (k : Params) (w : BitVec outW) : Rat := (w.toInt : Rat) / 2 ^ k.frac

/-- R11: the real number `acc` or `step` stands for, in table units. -/
def tableUnits (k : Params) (w : BitVec accW) : Rat := (w.toNat : Rat) / 2 ^ k.frac

/-- R89: `P(s) = ceil(2^31 / s)`, the period of the waveform. -/
def period (k : Params) (s : BitVec accW) : Nat := (2 ^ k.syncBit + s.toNat - 1) / s.toNat

/-- R89: the closed form of the accumulator, `(n mod P(s)) * s`. -/
def closedForm (k : Params) (s : BitVec accW) (n : Nat) : Nat := (n % period k s) * s.toNat

/-- R91: the sync events met by the first n walk steps from 0. -/
def syncCount (k : Params) (s : BitVec accW) : Nat → Nat
  | 0 => 0
  | n + 1 => syncCount k s n + (syncEvent k s (accAfter k s n)).toNat

end Sys2Proof.Machine
end

