-- ==== Sys2Proof/Machine/Ops.lean ====
section
/-! DEFINITION. The named operations on the state that the commands and the clock edges share: the resets, the cache, the
walk, the response port and the host's side of it. There is no exception to take and none to return from (spec/60_exceptions.md
R100, R104). -/

namespace Sys2Proof.Machine

open Config (Params)

variable {posW accW outW : Nat}

/-- R70: write the step-size register. -/
def State.At.setStep (w : BitVec accW) (s : State.At posW accW outW) : State.At posW accW outW := { s with step := w }

/-- R72: the source's `reset()`, which RESET and SETWAVE perform; `step` is kept. -/
def State.At.restart (k : Params) (s : State.At posW accW outW) : State.At posW accW outW :=
  { s with acc := 0#_, lastPos := 0#_, prevPos := 0#_, lastVal := k.outAtZero, prevVal := k.outAtZero }

/-- R84: the cache shift of a miss. -/
def State.At.shiftCache (s : State.At posW accW outW) : State.At posW accW outW :=
  { s with prevPos := s.lastPos, prevVal := s.lastVal }

/-- R85, 90_conflicts.md C2: the backward reset's three assignments. -/
def State.At.rewind (k : Params) (s : State.At posW accW outW) : State.At posW accW outW :=
  { s with acc := 0#_, lastPos := 0#_, lastVal := k.outAtZero }

/-- R87: one walk step. -/
def State.At.walkOnce (k : Params) (s : State.At posW accW outW) : State.At posW accW outW :=
  { s with acc := nx k s.step s.acc, lastPos := s.lastPos + 1#_ }

/-- R94: the cache fill after a walk. -/
def State.At.fillLast (k : Params) (s : State.At posW accW outW) : State.At posW accW outW :=
  { s with lastVal := quantize k s.acc }

/-- R10, R56: put a word on the response port. -/
def State.At.respond (w : BitVec outW) (s : State.At posW accW outW) : State.At posW accW outW :=
  { s with rspData := w, rspValid := true }

/-- R56, R128: the host takes the response. What `rsp_data` then holds has no meaning: a free value (log entry 7). -/
def State.At.takeResponse (s : State.At posW accW outW) : State.At posW accW outW :=
  { s with
    observed := s.observed ++ [s.rspData]
    rspValid := false
    rspData := Config.unspecifiedRspData _ s.rspDraws
    rspDraws := s.rspDraws + 1 }

/-- R30, R115: hardware reset at an edge with `rst = 1`. What it leaves in `tgt` and `rsp_data` is unspecified: free
values (U4, log entry 7). Two points are the model's choice, as the spec does not speak of them: a response that waits
there is dropped and not taken, whatever `rsp_ready` is (DESIGN CHOICE, log entry 21), and the words taken before it stay
in `observed` (DESIGN CHOICE, log entry 22). -/
def State.At.hardwareReset (k : Params) (s : State.At posW accW outW) : State.At posW accW outW :=
  { s with
    step := BitVec.ofNat _ k.resetStep
    acc := 0#_
    lastPos := 0#_
    lastVal := k.outAtZero
    prevPos := 0#_
    prevVal := k.outAtZero
    fsm := .idle
    tgt := Config.unspecifiedTgt _ s.tgtDraws
    rspData := Config.unspecifiedRspData _ s.rspDraws
    rspValid := false
    rstQ := true
    rspDraws := s.rspDraws + 1
    tgtDraws := s.tgtDraws + 1 }

/-- R52: at every edge `rst_q` takes the value `rst` has at that edge. -/
def State.At.sampleRst (rst : Bool) (s : State.At posW accW outW) : State.At posW accW outW := { s with rstQ := rst }

/-- R126: a GET that has to walk sets its target and leaves IDLE. -/
def State.At.startWalk (p : BitVec posW) (s : State.At posW accW outW) : State.At posW accW outW :=
  { s with tgt := p, fsm := .walk }

/-- R27, U4: a walk that has ended leaves no meaning in `tgt`: a free value (log entries 7 and 16). -/
def State.At.forgetTarget (s : State.At posW accW outW) : State.At posW accW outW :=
  { s with tgt := Config.unspecifiedTgt _ s.tgtDraws, tgtDraws := s.tgtDraws + 1 }

/-- R127: the edge that ends a walk returns to IDLE, where `tgt` holds no meaning (R27). -/
def State.At.endWalk (s : State.At posW accW outW) : State.At posW accW outW := { s.forgetTarget with fsm := .idle }

/-- R84, R85: what a miss does before it walks: the shift, then, for `p < lastPos`, the backward reset. -/
def State.At.startMiss (k : Params) (p : BitVec posW) (s : State.At posW accW outW) : State.At posW accW outW :=
  if p < s.shiftCache.lastPos then s.shiftCache.rewind k else s.shiftCache

/-- R87: the walk loop, `while lastPos != p`, with at most n iterations. -/
def State.At.walkLoop (k : Params) (p : BitVec posW) : Nat → State.At posW accW outW → State.At posW accW outW
  | 0, s => s
  | n + 1, s => if s.lastPos = p then s else State.At.walkLoop k p n (s.walkOnce k)

/-- R87, R97: the walk loop. A walk takes at most `TABLE_LEN` - 1 steps. -/
def State.At.walkTo (k : Params) (p : BitVec posW) (s : State.At posW accW outW) : State.At posW accW outW :=
  s.walkLoop k p (Config.tableLen posW - 1)

/-- R52: `cmd_ready = (fsm = IDLE) and (rsp_valid = 0) and (rst_q = 0)`. -/
def cmdReady (s : State.At posW accW outW) : Bool := decide (s.fsm = .idle) && !s.rspValid && !s.rstQ

/-- R50, R51: the output ports. -/
def outputs (s : State.At posW accW outW) : PortOutputs outW :=
  { cmdReady := cmdReady s, rspValid := s.rspValid, rspData := s.rspData }

/-- R53: a command is accepted at an edge exactly when `rst = 0`, `cmd_valid = 1` and `cmd_ready = 1`. -/
def accepts (p : Pins) (s : State.At posW accW outW) : Bool := !p.rst && p.cmdValid && cmdReady s

/-- R53, R54: the command word on the input ports. -/
def Pins.word (p : Pins) : CommandWord := commandWord p.cmdOp p.cmdArg

/-- The host drives nothing (R111). -/
def quietPins : Pins := { rst := false, cmdValid := false, cmdOp := 0#2, cmdArg := 0#32, rspReady := false }

/-- The host holds reset (R115, R119). -/
def resetPins : Pins := { quietPins with rst := true }

/-- The host takes a response (R56). -/
def takePins : Pins := { quietPins with rspReady := true }

/-- The host offers a command word (R53). -/
def offerPins (c : CommandWord) : Pins := { quietPins with cmdValid := true, cmdOp := opField c, cmdArg := argField c }

/-- The input ports at the next edge: what the host has lined up, or nothing driven (log entry 2). -/
def nextPins (s : State.At posW accW outW) : Pins := s.inputs.headD quietPins

/-- The host moves on to its next sample. -/
def State.At.popInputs (s : State.At posW accW outW) : State.At posW accW outW := { s with inputs := s.inputs.tail }

/-- The host drives this sample before those it has lined up. -/
def State.At.pushInput (p : Pins) (s : State.At posW accW outW) : State.At posW accW outW :=
  { s with inputs := p :: s.inputs }

/-- The host offers command word c next, to a block that is ready for it: IDLE, no response pending, out of reset
(R52). Nothing else changes. -/
def State.At.offerNext (c : CommandWord) (s : State.At posW accW outW) : State.At posW accW outW :=
  { s.pushInput (offerPins c) with fsm := .idle, rspValid := false, rstQ := false }

end Sys2Proof.Machine
end

