-- ==== Sys2Proof/Machine/PositionQuery.lean ====
section
/-! DEFINITION. GET (spec/41_position_query.md R80 to R99): the cache, the walk and the response. -/

namespace Sys2Proof.Machine

open Config (Params)

variable {argW posW accW outW : Nat}

/-- The paths of R80, in the order its tests decide (R103). -/
inductive GetPath where
  | hitLast
  | hitPrev
  | missForward
  | missBackward
deriving DecidableEq, Repr

/-- R83, R85: which path a GET of position p takes. -/
def getPath (p : BitVec posW) (s : State.At posW accW outW) : GetPath :=
  if p = s.lastPos then .hitLast
  else if p = s.prevPos then .hitPrev
  else if p < s.lastPos then .missBackward
  else .missForward

/-- R97: the number of walk steps a GET of position p performs. -/
def walkLength (p : BitVec posW) (s : State.At posW accW outW) : Nat :=
  match getPath p s with
  | .hitLast => 0
  | .hitPrev => 0
  | .missForward => p.toNat - s.lastPos.toNat
  | .missBackward => p.toNat

/-- R84 to R87, R94: the registers of R80 after a miss, the response not yet given. -/
def missRegisters (k : Params) (p : BitVec posW) (s : State.At posW accW outW) : State.At posW accW outW :=
  ((s.startMiss k p).walkTo k p).fillLast k

/-- The same with what the walk leaves in its hidden target (R27, R126): no meaning, where there is anything to walk (log
entry 16). -/
def missEffect (k : Params) (p : BitVec posW) (s : State.At posW accW outW) : State.At posW accW outW :=
  if walkLength p s = 0 then missRegisters k p s else (missRegisters k p s).forgetTarget

/-- R80: GET, one line of the pseudocode after another. -/
def getEffect (k : Params) (arg : BitVec argW) (s : State.At posW accW outW) : State.At posW accW outW :=
  let p := positionOf arg
  if p = s.lastPos then s.respond s.lastVal
  else if p = s.prevPos then s.respond s.prevVal
  else (missEffect k p s).respond (missEffect k p s).lastVal

/-- GET on this hardware. -/
def execGet (arg : Word) (s : State) : Host.Outcome State Fault Refusal := .next (getEffect Config.block arg s)

end Sys2Proof.Machine
end

