-- ==== Sys2Proof/Machine/VariantSelection.lean ====
section
/-! DEFINITION. SETWAVE and RESET (spec/40_variant_selection.md R70 to R75). Neither responds, and neither raises
anything. -/

namespace Sys2Proof.Machine

variable {argW posW accW outW : Nat}

/-- R70: SETWAVE clamps the variant, recomputes `step`, then performs the reset of R72 (R74: exactly RESET). -/
def setwaveEffect (k : Config.Params) (arg : BitVec argW) (s : State.At posW accW outW) : State.At posW accW outW :=
  (s.setStep (stepSize k (variantOf k arg))).restart k

/-- R72: RESET; `step` is kept. -/
def resetEffect (k : Config.Params) (s : State.At posW accW outW) : State.At posW accW outW := s.restart k

/-- SETWAVE on this hardware. -/
def execSetwave (arg : Word) (s : State) : Host.Outcome State Fault Refusal := .next (setwaveEffect Config.block arg s)

/-- RESET on this hardware. -/
def execReset (s : State) : Host.Outcome State Fault Refusal := .next (resetEffect Config.block s)

end Sys2Proof.Machine
end

