-- ==== Sys2Proof/Machine/Dispatch.lean ====
section
/-! DEFINITION. The one dispatch from a command to its meaning (spec/30_encoding.md R57). -/

namespace Sys2Proof.Machine

def exec (i : Instr) (s : State) : Host.Outcome State Fault Refusal :=
  match i with
  | .setwave arg => Sys2Proof.Machine.execSetwave arg s
  | .get arg => Sys2Proof.Machine.execGet arg s
  | .reset => Sys2Proof.Machine.execReset s

end Sys2Proof.Machine
end

