-- ==== Sys2Proof/Machine/Cycle.lean ====
section
/-! DEFINITION. The reference schedule, one rising edge of `clk` at a time (spec/70_reset_and_hazards.md R115 to R130,
30_encoding.md R50 to R53 and R56). It is the spec's own timing: no transaction rule depends on it (R14). After it, the
transaction-level step on one sample of the ports. -/

namespace Sys2Proof.Machine

open Config (Params)

variable {argW posW accW outW : Nat}

/-- What a step answers on a block of these widths: a next state or a refusal, for there is no fault (R100). -/
abbrev Answer (posW accW outW : Nat) := Host.Outcome (State.At posW accW outW) Fault Refusal

/-- R14, R32: a command's whole effect, with the constants as a parameter; `exec` is this at R6's constants. -/
def execAt (k : Params) (i : Instr) (s : State.At posW accW outW) : Answer posW accW outW :=
  match i with
  | .setwave arg => .next (setwaveEffect k (portArg k arg) s)
  | .get arg => .next (getEffect k (portArg k arg) s)
  | .reset => .next (resetEffect k s)

/-- R126: the edge that accepts a GET. A hit answers at this edge, and so does a miss with nothing to walk; another miss
goes to WALK. -/
def acceptGet (k : Params) (arg : BitVec argW) (s : State.At posW accW outW) : State.At posW accW outW :=
  let p := positionOf arg
  if p = s.lastPos then s.respond s.lastVal
  else if p = s.prevPos then s.respond s.prevVal
  else if walkLength p s = 0 then ((s.startMiss k p).fillLast k).respond (quantize k (s.startMiss k p).acc)
  else (s.startMiss k p).startWalk p

/-- R125, R126: the edge that accepts command i. -/
def acceptEdge (k : Params) (i : Instr) (s : State.At posW accW outW) : Answer posW accW outW :=
  match i with
  | .setwave arg => .next (setwaveEffect k (portArg k arg) s)
  | .get arg => .next (acceptGet k (portArg k arg) s)
  | .reset => .next (resetEffect k s)

/-- R127: an edge in WALK: one walk step, and at the target the fill, the response and the return to IDLE. -/
def walkEdge (k : Params) (s : State.At posW accW outW) : State.At posW accW outW :=
  if (s.walkOnce k).lastPos = s.tgt then (((s.walkOnce k).fillLast k).endWalk).respond (quantize k (s.walkOnce k).acc)
  else s.walkOnce k

/-- R128: the response edge, when the host takes a response that is there. -/
def responseEdge (p : Pins) (s : State.At posW accW outW) : State.At posW accW outW :=
  if s.rspValid && p.rspReady then s.takeResponse else s

/-- An edge with `rst = 0` at which no command is accepted: the response edge (R128) and the walk edge (R127). On every
state a run reaches at most one of the two acts (log entry 18). -/
def plainEdge (k : Params) (p : Pins) (s : State.At posW accW outW) : State.At posW accW outW :=
  if s.fsm = .walk then walkEdge k (responseEdge p s) else responseEdge p s

/-- What an accepted command word does, given what its command does: an op of 00 is refused (R64). -/
def runAccepted (run : Instr → State.At posW accW outW → Answer posW accW outW) (c : CommandWord)
    (s : State.At posW accW outW) : Answer posW accW outW :=
  match decode c with
  | .ok i => run i s
  | .error .reservedOpcode => .refused .reservedOpcode

/-- One rising edge of `clk` with these input ports. Reset wins over a command and a walk (R103, R115). That it also wins
over the taking of a response, at an edge with `rst = 1`, `rsp_valid = 1` and `rsp_ready = 1`, is the model's choice: R50,
R56, R103 and R128 do not say whether the host has then taken the word, and here it has not, so `observed` stays (DESIGN
CHOICE, log entry 21). -/
def clockEdge (k : Params) (p : Pins) (s : State.At posW accW outW) : Answer posW accW outW :=
  if p.rst then .next (s.hardwareReset k)
  else if accepts p s then runAccepted (acceptEdge k) p.word (s.sampleRst p.rst)
  else .next (plainEdge k p (s.sampleRst p.rst))

/-- One step at the transaction level, on one sample of the input ports: a command accepted there is executed whole, by
`run` (R14, R45); a sample that accepts none is its clock edge (log entry 3). -/
def stepOn (k : Params) (run : Instr → State.At posW accW outW → Answer posW accW outW) (p : Pins)
    (s : State.At posW accW outW) : Answer posW accW outW :=
  if accepts p s then runAccepted run p.word s else clockEdge k p s

/-- R32: the step relation, which takes the constants as parameters: the widths of the state (R6 `POS_W`, `TABLE_LEN`,
`ACC_W`, `OUT_W`) and k, the others. -/
def stepAt (k : Params) (s : State.At posW accW outW) : Answer posW accW outW :=
  stepOn k (execAt k) (nextPins s) s.popInputs

/-- A run of clock edges, stopping at a refusal. -/
def runEdges (k : Params) : List Pins → State.At posW accW outW → Answer posW accW outW
  | [], s => .next s
  | p :: ps, s =>
    match clockEdge k p s with
    | .next t => runEdges k ps t
    | .fault r => .fault r
    | .refused r => .refused r

end Sys2Proof.Machine
end

