-- ==== Sys2Proof/Machine/Step.lean ====
section
/-! DEFINITION. One step of the block (spec/00_scope.md R14: "A step is one whole command"): an accepted command is
executed whole; where the sample of the input ports has no command accepted, the step is that one clock edge
(log entries 2 and 3). -/

namespace Sys2Proof.Machine

/-- One step of this hardware, on the sample of the input ports that the host drives next: `stepAt` at R6's constants. -/
def step (s : State) : Host.Outcome State Fault Refusal := stepOn Config.block exec (nextPins s) s.popInputs

/-- s with the opcode table's word w offered at the command port next, to a block that is ready for it. -/
def State.withFetchWord (s : State) (nbits w : Nat) : State := s.offerNext (tableCommandWord nbits w)

end Sys2Proof.Machine
end

