-- ==== Sys2Proof/Machine/Assembler.lean ====
section
/-! DEFINITION. The command-stream assembler and disassembler (spec/30_encoding.md R60 to R62), on lists of characters.
What R60 leaves open of the text is log entry 17. -/

namespace Sys2Proof.Machine

/-- Why the assembler rejects a line. -/
inductive AsmError where
  /-- The first word is no mnemonic of R60 or R61. -/
  | unknownMnemonic
  /-- Too few or too many operands for the mnemonic. -/
  | wrongOperands
  /-- The operand is neither a decimal nor a hexadecimal literal. -/
  | badImmediate
  /-- R60: "The assembler rejects an `<imm>` outside -2^31..2^31-1." -/
  | immediateOutOfRange
deriving DecidableEq, Repr

/-- R60, R61: the commands that a line stands for. -/
def expandLine : AsmLine → List Instr
  | .setwave imm => [.setwave (toS32 imm)]
  | .get imm => [.get (toS32 imm)]
  | .reset => [.reset]
  | .getpair imm => [.get (toS32 imm), .get (toS32 (imm + 1))]
  | .restart => [.reset]

/-- R60, R61: assemble a line, or reject an immediate out of range. -/
def assembleLine (l : AsmLine) : Except AsmError (List Instr) :=
  if l.wellFormed then .ok (expandLine l) else .error .immediateOutOfRange

/-- R60: how a disassembler reads a command, the argument as a signed number; RESET alone, whatever its argument bits. -/
def disassemble : Instr → AsmLine
  | .setwave arg => .setwave arg.toInt
  | .get arg => .get arg.toInt
  | .reset => .reset

/-- R60: `;` starts a comment. -/
def dropComment : List Char → List Char
  | [] => []
  | c :: cs => if c = ';' then [] else c :: dropComment cs

/-- What separates the words of a line (log entry 17). -/
def isBlank (c : Char) : Bool := c = ' ' || c = '\t'

/-- A finished word, if there is one. -/
def flushWord (word : List Char) : List (List Char) := if word.isEmpty then [] else [word]

/-- The words of a line, given the characters of the word being read. -/
def splitWords : List Char → List Char → List (List Char)
  | word, [] => flushWord word
  | word, c :: cs => if isBlank c then flushWord word ++ splitWords [] cs else splitWords (word ++ [c]) cs

/-- A decimal digit. -/
def decDigit (c : Char) : Option Nat := if 48 ≤ c.toNat ∧ c.toNat ≤ 57 then some (c.toNat - 48) else none

/-- A hexadecimal digit, of either case (log entry 17). -/
def hexDigit (c : Char) : Option Nat :=
  if 48 ≤ c.toNat ∧ c.toNat ≤ 57 then some (c.toNat - 48)
  else if 65 ≤ c.toNat ∧ c.toNat ≤ 70 then some (c.toNat - 55)
  else if 97 ≤ c.toNat ∧ c.toNat ≤ 102 then some (c.toNat - 87)
  else none

/-- The number a string of digits continues, most significant digit first. -/
def readDigits (digit : Char → Option Nat) (base : Nat) : Nat → List Char → Option Nat
  | n, [] => some n
  | n, c :: cs =>
    match digit c with
    | some d => readDigits digit base (n * base + d) cs
    | none => none

/-- A literal has at least one digit. -/
def readLiteral (digit : Char → Option Nat) (base : Nat) (cs : List Char) : Option Nat :=
  if cs.isEmpty then none else readDigits digit base 0 cs

/-- R60: a decimal integer with an optional `-` sign, or a `0x` hexadecimal literal, in which `_` may separate digits
(R8). -/
def readImm : List Char → Option Int
  | '-' :: ds => (readLiteral decDigit 10 ds).map (fun n => -(n : Int))
  | '0' :: 'x' :: hs => (readLiteral hexDigit 16 (hs.filter (· != '_'))).map (fun n => (n : Int))
  | ds => (readLiteral decDigit 10 ds).map (fun n => (n : Int))

/-- R60, R61: the mnemonics with an operand. -/
def unaryLine (m : List Char) : Option (Int → AsmLine) :=
  if m = ['S', 'E', 'T', 'W', 'A', 'V', 'E'] then some .setwave
  else if m = ['G', 'E', 'T'] then some .get
  else if m = ['G', 'E', 'T', 'P', 'A', 'I', 'R'] then some .getpair
  else none

/-- R60, R61: the mnemonics with none. -/
def nullaryLine (m : List Char) : Option AsmLine :=
  if m = ['R', 'E', 'S', 'E', 'T'] then some .reset
  else if m = ['R', 'E', 'S', 'T', 'A', 'R', 'T'] then some .restart
  else none

/-- One line of text: a command line, or none for a line with nothing before its comment (log entry 17). -/
def parseLine (text : List Char) : Except AsmError (Option AsmLine) :=
  match splitWords [] (dropComment text) with
  | [] => .ok none
  | [m] =>
    match nullaryLine m with
    | some l => .ok (some l)
    | none => if (unaryLine m).isSome then .error .wrongOperands else .error .unknownMnemonic
  | [m, x] =>
    match unaryLine m, readImm x with
    | some line, some imm => .ok (some (line imm))
    | some _, none => .error .badImmediate
    | none, _ => if (nullaryLine m).isSome then .error .wrongOperands else .error .unknownMnemonic
  | m :: _ => if (unaryLine m).isSome || (nullaryLine m).isSome then .error .wrongOperands else .error .unknownMnemonic

/-- R60: assemble one line of text. -/
def assembleText (text : List Char) : Except AsmError (List Instr) :=
  match parseLine text with
  | .ok none => .ok []
  | .ok (some l) => assembleLine l
  | .error e => .error e

/-- R60: assemble a command stream, one command per line, to the words of R62. -/
def assembleStream : List (List Char) → Except AsmError (List CommandWord)
  | [] => .ok []
  | line :: lines =>
    match assembleText line, assembleStream lines with
    | .ok is, .ok ws => .ok (is.map encode ++ ws)
    | .error e, _ => .error e
    | _, .error e => .error e

/-- The digits of n before those already written; n itself bounds how many there are. -/
def decimalDigits : Nat → Nat → List Char → List Char
  | 0, _, ds => ds
  | fuel + 1, n, ds =>
    if n < 10 then Char.ofNat (48 + n) :: ds else decimalDigits fuel (n / 10) (Char.ofNat (48 + n % 10) :: ds)

/-- A signed decimal. -/
def printImm : Int → List Char
  | .ofNat n => decimalDigits (n + 1) n []
  | .negSucc n => '-' :: decimalDigits (n + 2) (n + 1) []

/-- R60, R61: a line as text. -/
def printLine : AsmLine → List Char
  | .setwave imm => ['S', 'E', 'T', 'W', 'A', 'V', 'E', ' '] ++ printImm imm
  | .get imm => ['G', 'E', 'T', ' '] ++ printImm imm
  | .reset => ['R', 'E', 'S', 'E', 'T']
  | .getpair imm => ['G', 'E', 'T', 'P', 'A', 'I', 'R', ' '] ++ printImm imm
  | .restart => ['R', 'E', 'S', 'T', 'A', 'R', 'T']

/-- R60: what the disassembler prints for a command word; nothing for the reserved opcode, which R60 gives no line. -/
def disassembleWord (c : CommandWord) : Option (List Char) :=
  match decode c with
  | .ok i => some (printLine (disassemble i))
  | .error _ => none

end Sys2Proof.Machine
end

