-- ==== Sys2Proof/Machine/Run.lean ====
section
/-! DEFINITION. Command streams at the transaction level (spec/70_reset_and_hazards.md R132, 20_memory.md R45): each
command is executed, its response, if any, is taken, and only then is the next accepted. -/

namespace Sys2Proof.Machine

open Config (Params)

variable {posW accW outW : Nat}

/-- R45, R56: the host takes the response, if there is one, before it goes on. -/
def State.At.settleResponse (s : State.At posW accW outW) : State.At posW accW outW :=
  if s.rspValid then s.takeResponse else s

/-- R45: one command, and the taking of its response. -/
def transact (k : Params) (i : Instr) (s : State.At posW accW outW) : Answer posW accW outW :=
  match execAt k i s with
  | .next t => .next t.settleResponse
  | .fault r => .fault r
  | .refused r => .refused r

/-- R132: a run of a finite stream of commands. -/
def runCommands (k : Params) : List Instr → State.At posW accW outW → Answer posW accW outW
  | [], s => .next s
  | i :: is, s =>
    match transact k i s with
    | .next t => runCommands k is t
    | .fault r => .fault r
    | .refused r => .refused r

/-- R121: the port samples of a host that issues these commands and after each of them is ready to take a response. -/
def portSamples : List Instr → List Pins
  | [] => []
  | i :: is => offerPins (encode i) :: takePins :: portSamples is

/-- R53, R121: at the ports, a host that keeps offering its next command and is always ready to take a response. -/
def patientPins : List Instr → Pins
  | [] => takePins
  | i :: _ => { offerPins (encode i) with rspReady := true }

/-- n clock edges under that host, which moves on to its next command when one is accepted (R53). -/
def patientRun (k : Params) : Nat → List Instr → State.At posW accW outW →
    Host.Outcome (List Instr × State.At posW accW outW) Fault Refusal
  | 0, todo, s => .next (todo, s)
  | n + 1, todo, s =>
    match clockEdge k (patientPins todo) s with
    | .next t => patientRun k n (if accepts (patientPins todo) s then todo.tail else todo) t
    | .fault r => .fault r
    | .refused r => .refused r

/-- R132: a run is over when every command has been accepted and executed, and every response taken. That this is so once
no port sample is left and the block is idle, whatever became of the offers in the samples, is the model's choice, for the
spec says nothing of commands offered but not accepted (DESIGN CHOICE, log entry 23): an offer that no edge accepted is no
command of the run, and samples still to come, be they offers or not, keep the run going. -/
def runOver (s : State.At posW accW outW) : Bool := s.inputs.isEmpty && decide (s.fsm = .idle) && !s.rspValid

end Sys2Proof.Machine
end

