-- ==== Sys2Proof/Safety.lean ====
section
/-! DEFINITION. What holds of a good state (spec/10_state.md R28, 70_reset_and_hazards.md R130) and what a stream of
commands must answer (R29, R89, R132), in the terms the statements use. All of it is said of
this hardware's constants, `Config.block`. -/

namespace Sys2Proof.Safety

open Sys2Proof.Machine
open Config (block)

/-- R28 S1, S2, S4, S5 and the two parts of S6 that hold even during a walk (R130). -/
structure WalkInv (s : State) : Prop where
  /-- S1. -/
  accBelowSync : s.acc.toNat < 2 ^ 31
  /-- S2. -/
  accIsWalk : s.acc = accAfter block s.step s.lastPos.toNat
  /-- S4. -/
  prevValIsOutput : s.prevVal = quantize block (accAfter block s.step s.prevPos.toNat)
  /-- S5. -/
  stepLegal : LegalStep block s.step
  /-- S6 for `acc`. -/
  accMultiple : 2 ^ 17 ∣ s.acc.toNat
  /-- S6 for `prevVal`. -/
  prevValMultiple : 2 ^ 17 ∣ s.prevVal.toNat

/-- R28: the invariants S1 to S6, which hold between commands. -/
structure CommandInv (s : State) : Prop extends WalkInv s where
  /-- S3. -/
  lastValIsOutput : s.lastVal = quantize block s.acc
  /-- S6 for `lastVal`. -/
  lastValMultiple : 2 ^ 17 ∣ s.lastVal.toNat

/-- R27, R28, R130: between commands `fsm = IDLE` and S1 to S6 hold, and a response that waits is an output of the
waveform in force (R29); during a walk S3 may fail, the walk has not passed its target, and no response waits. -/
def BlockInv (s : State) : Prop :=
  (s.fsm = .idle ∧ CommandInv s ∧ (s.rspValid = true → ∃ p : Position, s.rspData = quantize block (accAfter block s.step p.toNat))) ∨
  (s.fsm = .walk ∧ WalkInv s ∧ s.lastPos < s.tgt ∧ s.rspValid = false)

/-- R30: the reset value of every register to which R30 gives one. -/
def AtReset (s : State) : Prop :=
  s.step = 0x01000000#32 ∧ s.acc = 0#32 ∧ s.lastPos = 0#7 ∧ s.prevPos = 0#7 ∧ s.lastVal = 0xC0000000#32 ∧
  s.prevVal = 0xC0000000#32 ∧ s.fsm = .idle ∧ s.rspValid = false

/-- R20: the six architectural registers agree. -/
def SameRegisters (s t : State) : Prop :=
  s.step = t.step ∧ s.acc = t.acc ∧ s.lastPos = t.lastPos ∧ s.lastVal = t.lastVal ∧ s.prevPos = t.prevPos ∧ s.prevVal = t.prevVal

/-- What no command changes: the control state, `rst_q`, the host's side of the ports (log entries 2 and 15) and the
response port's count of free values (log entry 7). -/
def SameHostSide (s t : State) : Prop :=
  s.fsm = t.fsm ∧ s.rstQ = t.rstQ ∧ s.inputs = t.inputs ∧ s.observed = t.observed ∧ s.rspDraws = t.rspDraws

/-- The hidden walk target agrees, and the count of its free values (log entries 7 and 16). -/
def SameTarget (s t : State) : Prop := s.tgt = t.tgt ∧ s.tgtDraws = t.tgtDraws

/-- What no command but a GET that walks changes: all but the six registers and the response port. -/
def SameSurroundings (s t : State) : Prop := SameHostSide s t ∧ SameTarget s t

/-- R56: the response port agrees. -/
def SameResponse (s t : State) : Prop := s.rspData = t.rspData ∧ s.rspValid = t.rspValid

/-- R89: the word the closed form gives at position p, `out((p mod P(s)) * s)`. -/
def closedFormWord (s : Word) (p : Position) : Word := quantize block (BitVec.ofNat 32 (closedForm block s p.toNat))

/-- R29, R70, R132: the response words that a stream of commands must give, from the step in force alone: no cache, no
accumulator, no walk. -/
def closedFormResponses : Word → List Instr → List Word
  | _, [] => []
  | _, .setwave arg :: is => closedFormResponses (stepSize block (variantOf block arg)) is
  | s, .get arg :: is => closedFormWord s (positionOf arg) :: closedFormResponses s is
  | s, .reset :: is => closedFormResponses s is

end Sys2Proof.Safety
end

