-- ==== Sys2Proof/Certificates/Slice0/Obligations.lean ====
section
/-! DEFINITION. The statements for the provers, from the numbered rules of spec/. -/

open Sys2Proof Sys2Proof.Machine Sys2Proof.Safety
open Config (block Params)

/-! ## Reset, boot and the ports -/

/-- R30, R117: the state every run starts from holds every reset value that R30 gives. That nothing is lined up on the
ports and nothing has been observed is the model's choice (log entries 2 and 15). -/
def Obligations.InitialStateHoldsTheResetValues : Prop :=
  AtReset State.reset ∧ State.reset.inputs = [] ∧ State.reset.observed = []

/-- R115: an edge with `rst = 1` sets every register that R30 gives a value to that value, whatever the block was doing;
no command is accepted. The model's choices: the samples to come stay, and a step on such a sample is that edge and
consumes it (log entries 2 and 3); what was observed stays, and a response that waits there is not taken (log entries 15,
21 and 22). -/
def Obligations.HardwareResetEdge : Prop :=
  (∀ (p : Pins) (s : State), p.rst = true → ∃ t, clockEdge block p s = .next t ∧ AtReset t ∧ accepts p s = false ∧
    t.inputs = s.inputs ∧ t.observed = s.observed) ∧
  (∀ s : State, (nextPins s).rst = true → ∃ t, step s = .next t ∧ AtReset t ∧ t.inputs = s.inputs.tail ∧
    t.observed = s.observed)

/-- R52, R116: after the last edge with `rst = 1`, `cmd_ready` is 0 for one cycle, in which an offered command is not
accepted, and then it is 1. -/
def Obligations.ReadyOneCycleAfterReset : Prop :=
  ∀ (p q : Pins) (s : State), p.rst = true → q.rst = false →
    ∃ t u, clockEdge block p s = .next t ∧ cmdReady t = false ∧
      clockEdge block q t = .next u ∧ SameRegisters t u ∧ cmdReady u = true

/-- R14, R53: a step on a sample at which a command is accepted is that command's `exec`, on the state with the sample
consumed. (That a step is one sample of the ports is the model's choice, log entries 2 and 3.) -/
def Obligations.StepRunsTheDecodedCommand : Prop :=
  ∀ (s : State) (i : Instr), accepts (nextPins s) s = true → decode (nextPins s).word = .ok i →
    step s = exec i { s with inputs := s.inputs.tail }

/-- An opcode-table word placed by `withFetchWord` is what the next step decodes and runs (the model's interface, log
entries 1 and 2). -/
def Obligations.OfferedTableWordRunsNext : Prop :=
  ∀ (s : State) (nbits w : Nat) (i : Instr), decodeTableWord nbits w = some i →
    step (s.withFetchWord nbits w) = exec i { s with fsm := .idle, rspValid := false, rstQ := false }

/-- R58, R64: an accepted command with op 00 is refused, at a step and at an edge, and a run stays refused. -/
def Obligations.ReservedOpcodeIsRefused : Prop :=
  ∀ s : State, accepts (nextPins s) s = true → (nextPins s).cmdOp = 0#2 →
    clockEdge block (nextPins s) s = .refused .reservedOpcode ∧
    ∀ n, Host.Core.run core (n + 1) s = .refused .reservedOpcode

/-- R59, R100, R101: nothing but the reserved opcode stops the block: every other step has a next state. -/
def Obligations.OnlyTheReservedOpcodeStops : Prop :=
  ∀ s : State, (∃ t, step s = .next t) ∨
    (accepts (nextPins s) s = true ∧ (nextPins s).cmdOp = 0#2 ∧ step s = .refused .reservedOpcode)

/-- R53: at an edge where no command is accepted, the command ports are ignored. -/
def Obligations.UnacceptedOfferIsIgnored : Prop :=
  ∀ (p q : Pins) (s : State), accepts p s = false → accepts q s = false → p.rst = q.rst → p.rspReady = q.rspReady →
    clockEdge block p s = clockEdge block q s

/-- R111: with nothing driven, an idle block out of reset holds its state. (That an empty port list drives nothing, and a step
is then a clock edge, is the model's choice, log entries 2 and 3; that `tgt` stays, log entry 16.) -/
def Obligations.IdleBlockHoldsItsState : Prop :=
  ∀ s : State, s.inputs = [] → s.fsm = .idle → s.rstQ = false → step s = .next s

/-- R128, R56, R121: a response that waits is taken at an edge with `rsp_ready = 1`, no command being accepted there,
and the block is ready again after it; without `rsp_ready` everything holds, whatever is offered. (By the block's
invariant `fsm = IDLE` whenever a response waits.) The model's choices: the word taken goes to the end of the model's own
`observed`, R132's observation (log entry 15), and where everything holds, so do the host's side (log entries 2, 7 and 15)
and the hidden `tgt` (log entry 16). -/
def Obligations.ResponseEdgeTakesTheResponse : Prop :=
  ∀ (p : Pins) (s : State), s.rspValid = true → s.fsm = .idle → p.rst = false →
    accepts p s = false ∧
    (p.rspReady = true → ∃ t, clockEdge block p s = .next t ∧ t.rspValid = false ∧
      t.observed = s.observed ++ [s.rspData] ∧ SameRegisters s t ∧ cmdReady t = true) ∧
    (p.rspReady = false → clockEdge block p s = .next { s with rstQ := false })

/-! ## Encoding and assembler -/

/-- R54, R57, R62: command words written out from the encoding decode to their commands. -/
def Obligations.WrittenWordsDecode : Prop :=
  decode 0x10000003B#34 = .ok (.setwave 59#32) ∧ decode 0x1FFFFFFFB#34 = .ok (.setwave 0xFFFFFFFB#32) ∧
  decode 0x20000007F#34 = .ok (.get 127#32) ∧ decode 0x2FFFFFFFF#34 = .ok (.get 0xFFFFFFFF#32) ∧
  decode 0x300000000#34 = .ok .reset ∧ decode 0x3FFFFFFFF#34 = .ok .reset ∧
  decode 0x000000000#34 = .error .reservedOpcode

/-- R54, R57 to R59: decode of encode is the command; a decoded word is its encoding, but for RESET's ignored argument
bits; op alone selects the command; and only op 00 is rejected. -/
def Obligations.DecodeAndEncodeAgree : Prop :=
  (∀ i : Instr, i.wellFormed = true → decode (encode i) = .ok i) ∧
  (∀ (c : CommandWord) (i : Instr), decode c = .ok i →
    opField c = opcodeOf i ∧ (encode i = c ∨ (i = .reset ∧ encode i = c &&& rowMask))) ∧
  (∀ c : CommandWord, (decode c = .error .reservedOpcode ↔ c.toNat < 2 ^ 32) ∧ (c.toNat < 2 ^ 32 ∨ ∃ i, decode c = .ok i))

/-- R62: the command word of an assembler line is `(op << 32) | wrap_32(imm)`; R60: an immediate out of range is
rejected. -/
def Obligations.AssemblerLineWord : Prop :=
  (∀ imm : Int, -2 ^ 31 ≤ imm → imm < 2 ^ 31 →
    (∃ i, assembleLine (.setwave imm) = .ok [i] ∧ (encode i).toNat = (1 <<< 32) ||| (imm % 2 ^ 32).toNat) ∧
    (∃ i, assembleLine (.get imm) = .ok [i] ∧ (encode i).toNat = (2 <<< 32) ||| (imm % 2 ^ 32).toNat)) ∧
  (∃ i, assembleLine .reset = .ok [i] ∧ (encode i).toNat = (3 <<< 32) ||| 0) ∧
  (∀ imm : Int, imm < -2 ^ 31 ∨ 2 ^ 31 ≤ imm →
    assembleLine (.setwave imm) = .error .immediateOutOfRange ∧ assembleLine (.get imm) = .error .immediateOutOfRange)

/-- R61: what the pseudo-instructions expand to. -/
def Obligations.PseudoInstructionsExpand : Prop :=
  (∀ imm : Int, -2 ^ 31 ≤ imm → imm + 1 < 2 ^ 31 →
    ∃ i j, assembleLine (.get imm) = .ok [i] ∧ assembleLine (.get (imm + 1)) = .ok [j] ∧
      assembleLine (.getpair imm) = .ok [i, j]) ∧
  (∀ imm : Int, imm < -2 ^ 31 ∨ 2 ^ 31 ≤ imm + 1 → assembleLine (.getpair imm) = .error .immediateOutOfRange) ∧
  assembleLine .restart = assembleLine .reset

/-- R60: the text that the disassembler prints for a command word assembles back to the command that word decodes to. -/
def Obligations.DisassembledTextAssemblesBack : Prop :=
  ∀ (c : CommandWord) (i : Instr), decode c = .ok i → ∃ text, disassembleWord c = some text ∧ assembleText text = .ok [i]

/-! ## SETWAVE and RESET -/

/-- R70: SETWAVE clamps the variant, recomputes `step`, performs the reset, and gives no response; it completes from
every state, with every argument. The model's choices: the host's side stays (log entries 2, 7 and 15), and so does the
hidden `tgt` (U4, log entry 16). -/
def Obligations.SetwaveResult : Prop :=
  ∀ (arg : Word) (s : State), ∃ t, exec (.setwave arg) s = .next t ∧
    t.step.toNat = 16777216 + (min (max arg.toInt 0) 59).toNat * 1441792 ∧
    t.acc = 0#32 ∧ t.lastPos = 0#7 ∧ t.prevPos = 0#7 ∧ t.lastVal = 0xC0000000#32 ∧ t.prevVal = 0xC0000000#32 ∧
    SameSurroundings s t ∧ SameResponse s t

/-- R71: the clamp, and that a SETWAVE out of range does what the SETWAVE of the clamped variant does. -/
def Obligations.VariantIsClamped : Prop :=
  (∀ x : Int, (x < 0 → clampVariant block x = 0) ∧ (59 < x → clampVariant block x = 59) ∧
    (0 ≤ x → x ≤ 59 → (clampVariant block x : Int) = x)) ∧
  (∀ (arg : Word) (s : State), exec (.setwave arg) s = exec (.setwave (BitVec.ofNat 32 (clampVariant block arg.toInt))) s)

/-- R73: the closed form of the step sizes, in words and in table units, and that they increase strictly. -/
def Obligations.StepSizesClosedForm : Prop :=
  (∀ v, v ≤ 59 → (stepSize block v : Word).toNat = 2 ^ 17 * (128 + 11 * v) ∧
    tableUnits block (stepSize block v : Word) = 1 + 11 * (v : Rat) / 128) ∧
  (∀ u v, u < v → v ≤ 59 → (stepSize block u : Word).toNat < (stepSize block v : Word).toNat) ∧
  tableUnits block (stepSize block 0 : Word) = 1 ∧ tableUnits block (stepSize block 59 : Word) = 6.0703125 ∧
  (∀ v, v < 59 →
    tableUnits block (stepSize block (v + 1) : Word) = tableUnits block (stepSize block v : Word) + 0.0859375)

/-- R25: after SETWAVE the clamped variant can be computed back from `step`. -/
def Obligations.VariantRecoveredFromStep : Prop :=
  ∀ (arg : Word) (s : State), ∃ t, exec (.setwave arg) s = .next t ∧
    (variantOfStep block t.step : Int) = min (max arg.toInt 0) 59

/-- R21: `step` is written only by SETWAVE and hardware reset, and keeps to the legal values. -/
def Obligations.OnlySetwaveAndHardwareResetWriteStep : Prop :=
  ∀ s t : State, step s = .next t →
    (t.step ≠ s.step → (nextPins s).rst = true ∨ (accepts (nextPins s) s = true ∧ (nextPins s).cmdOp = 1#2)) ∧
    (LegalStep block s.step → LegalStep block t.step)

/-- R72: RESET restarts the waveform, keeps `step`, gives no response, changes nothing on an already reset state, and
changes no later GET response. The model's choices: the host's side stays (log entries 2, 7 and 15), and so does the
hidden `tgt` (U4, log entry 16); the responses are read off the model's own `observed` (log entry 15). -/
def Obligations.ResetResult : Prop :=
  ∀ s : State, ∃ t, exec .reset s = .next t ∧
    t.step = s.step ∧ t.acc = 0#32 ∧ t.lastPos = 0#7 ∧ t.prevPos = 0#7 ∧ t.lastVal = 0xC0000000#32 ∧
    t.prevVal = 0xC0000000#32 ∧ SameSurroundings s t ∧ SameResponse s t ∧
    exec .reset t = .next t ∧
    (CommandInv s → s.rspValid = false → ∀ is, ∃ u w, runCommands block is s = .next u ∧
      runCommands block is t = .next w ∧ u.observed = w.observed)

/-- R74: the reset that SETWAVE performs is exactly RESET; the partial reset inside a GET leaves `prevPos` and `prevVal`
as the cache shift set them. -/
def Obligations.SetwaveResetIsReset : Prop :=
  (∀ (arg : Word) (s : State),
    exec (.setwave arg) s = exec .reset { s with step := stepSize block (variantOf block arg) }) ∧
  (∀ (p : Position) (s : State), p < s.lastPos →
    (s.startMiss block p).acc = 0#32 ∧ (s.startMiss block p).lastPos = 0#7 ∧
    (s.startMiss block p).lastVal = 0xC0000000#32 ∧ (s.startMiss block p).prevPos = s.lastPos ∧
    (s.startMiss block p).prevVal = s.lastVal ∧ (s.startMiss block p).step = s.step)

/-- R118: RESET and hardware reset write the same values to five registers; RESET keeps `step`, hardware reset sets it
and clears the hidden state. -/
def Obligations.ResetVersusHardwareReset : Prop :=
  ∀ (p : Pins) (s : State), p.rst = true → ∃ t u, exec .reset s = .next t ∧ clockEdge block p s = .next u ∧
    t.acc = u.acc ∧ t.lastPos = u.lastPos ∧ t.prevPos = u.prevPos ∧ t.lastVal = u.lastVal ∧ t.prevVal = u.prevVal ∧
    t.step = s.step ∧ u.step = BitVec.ofNat 32 block.resetStep ∧ u.fsm = .idle ∧ u.rspValid = false

/-! ## GET -/

/-- R82: the position is the argument modulo 128, floor-style; truncating any wider integer to 32 bits loses nothing;
and GET depends on the argument only through its position. -/
def Obligations.PositionIsArgumentModulo128 : Prop :=
  (∀ arg : Word, ((positionOf arg : Position).toNat : Int) = arg.toInt % 128) ∧
  (∀ x : Int, ((positionOf (toS32 x) : Position).toNat : Int) = x % 128) ∧
  (∀ (a b : Word) (s : State), a.toInt % 128 = b.toInt % 128 → exec (.get a) s = exec (.get b) s)

/-- R83: a hit responds the cached word, the `lastPos` entry first, and writes nothing but the response port; entries of
the same position hold the same word. The model's choices: the host's side stays (log entries 2, 7 and 15), and so does
the hidden `tgt` (U4, log entry 16). -/
def Obligations.CacheHitResponds : Prop :=
  (∀ (arg : Word) (s : State), positionOf arg = s.lastPos →
    exec (.get arg) s = .next { s with rspData := s.lastVal, rspValid := true }) ∧
  (∀ (arg : Word) (s : State), positionOf arg ≠ s.lastPos → positionOf arg = s.prevPos →
    exec (.get arg) s = .next { s with rspData := s.prevVal, rspValid := true }) ∧
  (∀ s : State, CommandInv s → s.lastPos = s.prevPos → s.lastVal = s.prevVal)

/-- R84, R85, R87, R94: a miss shifts the cache, starts from 0 when it goes backward, applies the walk step function
exactly as often as R97 says, fills the newer entry and responds it; `step` stays. The model's choices: the host's side
stays (log entries 2, 7 and 15), and so does the hidden `tgt`, but where there is something to walk, after which it holds
any value (R126, U4, log entries 7 and 16). -/
def Obligations.CacheMissWalksAndFills : Prop :=
  ∀ (arg : Word) (s : State), positionOf arg ≠ s.lastPos → positionOf arg ≠ s.prevPos →
    ∃ t, exec (.get arg) s = .next t ∧
      t.prevPos = s.lastPos ∧ t.prevVal = s.lastVal ∧ t.lastPos = positionOf arg ∧
      (positionOf arg < s.lastPos → t.acc = (nx block s.step)^[(positionOf arg : Position).toNat] 0#32) ∧
      (s.lastPos < positionOf arg →
        t.acc = (nx block s.step)^[(positionOf arg : Position).toNat - s.lastPos.toNat] s.acc) ∧
      t.lastVal = quantize block t.acc ∧ t.rspData = t.lastVal ∧ t.rspValid = true ∧ t.step = s.step ∧
      SameHostSide s t ∧ (walkLength (positionOf arg) s = 0 → SameTarget s t)

/-- R97: the walk length by path, that no GET walks more than 127 steps, and that the walk loop of a miss performs
exactly that many walk steps. -/
def Obligations.WalkLengthByPath : Prop :=
  ∀ (p : Position) (s : State),
    (p = s.lastPos ∨ p = s.prevPos → walkLength p s = 0) ∧
    (p ≠ s.lastPos → p ≠ s.prevPos → s.lastPos < p → walkLength p s = p.toNat - s.lastPos.toNat) ∧
    (p ≠ s.lastPos → p ≠ s.prevPos → p < s.lastPos → walkLength p s = p.toNat) ∧
    walkLength p s ≤ 127 ∧
    (p ≠ s.lastPos → p ≠ s.prevPos →
      (s.startMiss block p).walkTo block p = (State.At.walkOnce block)^[walkLength p s] (s.startMiss block p))

/-- R86: the walk step function on numbers: the 32-bit sum, and 0 where it reaches 2^31 (a sync). -/
def Obligations.WalkStepSyncsAtBit31 : Prop :=
  ∀ s a : Word,
    (syncEvent block s a = true ↔ 2 ^ 31 ≤ (a.toNat + s.toNat) % 2 ^ 32) ∧
    (nx block s a).toNat = if 2 ^ 31 ≤ (a.toNat + s.toNat) % 2 ^ 32 then 0 else (a.toNat + s.toNat) % 2 ^ 32

/-- R88: on every state with the invariants, and for every legal step and accumulator below 2^31, the sum does not wrap,
so the bit-31 test is the integer test. -/
def Obligations.WalkSumNeverWraps : Prop :=
  (∀ s a : Word, LegalStep block s → a.toNat < 2 ^ 31 →
    a.toNat + s.toNat < 2 ^ 31 + 2 ^ 27 ∧ (syncEvent block s a = true ↔ 2 ^ 31 ≤ a.toNat + s.toNat) ∧
    (nx block s a).toNat = if 2 ^ 31 ≤ a.toNat + s.toNat then 0 else a.toNat + s.toNat) ∧
  (∀ s : State, WalkInv s → s.acc.toNat + s.step.toNat < 2 ^ 32)

/-- R92: the quantizer is exact, in both of its forms, and loses nothing. -/
def Obligations.QuantizerIsExact : Prop :=
  (∀ a : Word, a.toNat < 2 ^ 31 →
    (quantize block a : Word).toInt = (a.toNat : Int) - 2 ^ 30 ∧ -2 ^ 30 ≤ (quantize block a : Word).toInt ∧
    (quantize block a : Word).toInt < 2 ^ 30 ∧ quantize block a = quantizeBits a) ∧
  (∀ a b : Word, a.toNat < 2 ^ 31 → b.toNat < 2 ^ 31 → (quantize block a : Word) = quantize block b → a = b)

/-- R81, R93: the real value of a GET response is `acc * 2^-24 - 64` of the accumulator at that position, and a multiple
of 2^-7 of magnitude at most 64. -/
def Obligations.ResponseRealValue : Prop :=
  ∀ (arg : Word) (s : State), CommandInv s → ∃ t, exec (.get arg) s = .next t ∧
    realValue block t.rspData = tableUnits block (accAfter block s.step (positionOf arg : Position).toNat) - 64 ∧
    ∃ m : Int, -8192 ≤ m ∧ m ≤ 8192 ∧ realValue block t.rspData = (m : Rat) / 128

/-- R95: every GET response is in [-2^30, 2^30) and at most 0x3FFE_0000; the minimum is reached at position 0 for every
variant, and the largest value of all at variant 23. -/
def Obligations.ResponseRange : Prop :=
  (∀ (arg : Word) (s : State), CommandInv s → ∃ t, exec (.get arg) s = .next t ∧
    -2 ^ 30 ≤ t.rspData.toInt ∧ t.rspData.toInt < 2 ^ 30 ∧ t.rspData.toInt ≤ 0x3FFE0000) ∧
  (∀ (arg : Word) (s : State), CommandInv s → arg.toInt % 128 = 0 → ∃ t, exec (.get arg) s = .next t ∧
    t.rspData.toInt = -2 ^ 30) ∧
  (∃ p : Position, (quantize block (accAfter block (stepSize block 23 : Word) p.toNat) : Word).toInt = 0x3FFE0000)

/-- R29: the response of a GET is `out(A(step, p))` for the position modulo 128, from every state with the invariants. -/
def Obligations.GetAnswersTheWaveform : Prop :=
  ∀ (arg : Word) (s : State), CommandInv s → ∃ t, exec (.get arg) s = .next t ∧ t.rspValid = true ∧
    t.rspData = quantize block (accAfter block s.step (arg.toInt % 128).toNat)

/-- R29, R49: two blocks with the same `step` answer alike, whatever their caches and accumulators hold. -/
def Obligations.ResponseIndependentOfCache : Prop :=
  ∀ (a b : Word) (s u : State), CommandInv s → CommandInv u → s.step = u.step →
    (positionOf a : Position) = positionOf b →
    ∃ t w, exec (.get a) s = .next t ∧ exec (.get b) u = .next w ∧ t.rspData = w.rspData

/-- R96, "Cache correctness": the same GET again returns the same word and writes nothing, from any state. (That the
model's own fields and `tgt` stay too is the model's choice, log entries 2, 7, 15 and 16.) -/
def Obligations.RepeatedGetChangesNothing : Prop :=
  ∀ (a b : Word) (s : State), (positionOf a : Position) = positionOf b →
    ∃ t, exec (.get a) s = .next t ∧ exec (.get b) t = .next t

/-- R83, R96: any number of GETs of the two cached positions hit: the registers stay, and each is answered from its
entry. (The responses are read off the model's own `observed`, log entry 15.) -/
def Obligations.CachedPositionsHitForever : Prop :=
  ∀ (args : List Word) (s : State), s.rspValid = false →
    (∀ a ∈ args, positionOf a = s.lastPos ∨ positionOf a = s.prevPos) →
    ∃ t, runCommands block (args.map Instr.get) s = .next t ∧ SameRegisters s t ∧
      t.observed = s.observed ++ args.map (fun a => if positionOf a = s.lastPos then s.lastVal else s.prevVal)

/-- R96: at variant 0 the values are exactly p - 64. -/
def Obligations.VariantZeroIsExact : Prop :=
  ∀ (arg : Word) (s : State), CommandInv s → s.step = 0x01000000#32 → ∃ t, exec (.get arg) s = .next t ∧
    t.rspData.toInt = (arg.toInt % 128 - 64) * 2 ^ 24

/-- R96, R98: a GET of position 0 answers -64 and walks no step from every state with the invariants; after the sweep to
127 it is a backward miss that keeps 127 as the older entry. -/
def Obligations.WrapToPositionZero : Prop :=
  (∀ (arg : Word) (s : State), CommandInv s → positionOf arg = 0#7 → walkLength 0#7 s = 0 ∧
    ∃ t, exec (.get arg) s = .next t ∧ t.rspData = 0xC0000000#32) ∧
  (∀ (arg : Word) (s : State), positionOf arg = 0#7 → s.lastPos = 127#7 → s.prevPos = 126#7 →
    getPath 0#7 s = .missBackward ∧ ∃ t, exec (.get arg) s = .next t ∧ t.rspData = 0xC0000000#32 ∧
      t.lastPos = 0#7 ∧ t.prevPos = 127#7 ∧ t.prevVal = s.lastVal)

/-- R89: the closed form of the accumulator, for every legal step and every n; the period is the least n with
`n * s >= 2^31`. -/
def Obligations.AccumulatorClosedForm : Prop :=
  (∀ s : Word, LegalStep block s →
    (2 ^ 31 ≤ period block s * s.toNat ∧ ∀ n, n < period block s → n * s.toNat < 2 ^ 31) ∧
    ∀ n, (accAfter block s n).toNat = (n % period block s) * s.toNat) ∧
  (∀ (arg : Word) (s : State), CommandInv s → ∃ t, exec (.get arg) s = .next t ∧
    t.rspData = closedFormWord s.step (positionOf arg)) ∧
  period block (stepSize block 0 : Word) = 128 ∧ period block (stepSize block 1 : Word) = 118 ∧
  period block (stepSize block 59 : Word) = 22

/-- R91: the syncs of a walk from 0 are at the multiples of the period; their counts over positions 1..127, by variant. -/
def Obligations.SyncCountsByVariant : Prop :=
  (∀ s : Word, LegalStep block s → ∀ n, (syncEvent block s (accAfter block s n) = true ↔ period block s ∣ n + 1) ∧
    syncCount block s n = n / period block s) ∧
  (∀ v, v ≤ 59 → syncCount block (stepSize block v : Word) 127 =
    if v = 0 then 0 else if v ≤ 12 then 1 else if v ≤ 23 then 2 else if v ≤ 36 then 3 else if v ≤ 47 then 4 else 5) ∧
  (∀ u v, u ≤ v → v ≤ 59 →
    syncCount block (stepSize block u : Word) 127 ≤ syncCount block (stepSize block v : Word) 127)

/-! ## Invariants -/

/-- R28, R30, U5: the invariants hold right after hardware reset, for every legal `RESET_STEP`: every one is the step of
a variant, and State.resetWith takes the variant. -/
def Obligations.InvariantsHoldAtReset : Prop :=
  (∀ w : Word, LegalStep block w → ∃ v, v ≤ 59 ∧ (State.resetWith v).step = w) ∧
  (∀ v, CommandInv (State.resetWith v) ∧ BlockInv (State.resetWith v)) ∧ BlockInv State.reset

/-- R28: every command keeps S1 to S6, and hardware reset establishes them. -/
def Obligations.CommandsKeepTheInvariants : Prop :=
  (∀ (i : Instr) (s : State), CommandInv s → ∃ t, exec i s = .next t ∧ CommandInv t) ∧
  (∀ s : State, CommandInv (s.hardwareReset block))

/-- R28, R130: every step keeps the block's invariant. -/
def Obligations.StepKeepsBlockInvariant : Prop :=
  ∀ s t : State, BlockInv s → step s = .next t → BlockInv t

/-- R28, R130: every clock edge of the reference schedule keeps the block's invariant, whatever the host drives. -/
def Obligations.ClockEdgeKeepsBlockInvariant : Prop :=
  ∀ (p : Pins) (s t : State), BlockInv s → clockEdge block p s = .next t → BlockInv t

/-- R75, R87, R90: only a walk edge advances `lastPos`: an edge leaves it, sets it to 0, or is a walk edge. -/
def Obligations.OnlyTheWalkAdvancesLastPos : Prop :=
  ∀ (p : Pins) (s t : State), clockEdge block p s = .next t →
    t.lastPos = s.lastPos ∨ t.lastPos = 0#7 ∨
    (s.fsm = .walk ∧ t.lastPos = s.lastPos + 1#7 ∧ t.acc = nx block s.step s.acc)

/-! ## The reference schedule refines the transactions -/

/-- R125: the edge that accepts SETWAVE or RESET performs all of it, and the block is ready at the next edge. -/
def Obligations.SetwaveAndResetTakeOneEdge : Prop :=
  ∀ (p : Pins) (s : State) (i : Instr), accepts p s = true → decode p.word = .ok i → opcodeOf i ≠ 2#2 →
    ∃ t, clockEdge block p s = .next t ∧ exec i s = .next t ∧ cmdReady t = true

/-- R126, R127, R129: a GET of walk length n, accepted at edge 0, has at edge n exactly the state that its transaction
gives; R32: for all constants and widths, and so for this hardware's. (That the hidden `tgt` then holds the same free
value on both sides is the model's choice, log entries 7 and 16; what other constants make of the port's argument is log
entry 9.) -/
def Obligations.GetScheduleMatchesTransaction : Prop :=
  ∀ (posW accW outW : Nat) (k : Params) (p : Pins) (ps : List Pins) (s : State.At posW accW outW) (arg : Word),
    accepts p s = true → decode p.word = .ok (.get arg) → ps.length = walkLength (positionOf (portArg k arg)) s →
    (∀ q ∈ ps, q.rst = false) → ∃ t, execAt k (.get arg) s = .next t ∧ runEdges k (p :: ps) s = .next t

/-- R124, R129, R130: before edge n the block walks, one position an edge: not ready, no response, `lastVal` as the
accepting edge left it, and `acc` at its value for `lastPos`; for all constants and widths. (What other constants make of
the port's argument is log entry 9.) -/
def Obligations.BusyUntilTheWalkEnds : Prop :=
  ∀ (posW accW outW : Nat) (k : Params) (pin : Pins) (ps : List Pins) (s : State.At posW accW outW) (arg : Word)
    (p : BitVec posW), accepts pin s = true → decode pin.word = .ok (.get arg) → p = positionOf (portArg k arg) →
    ps.length < walkLength p s → (∀ q ∈ ps, q.rst = false) →
    ∃ t, runEdges k (pin :: ps) s = .next t ∧ t.fsm = .walk ∧ t.tgt = p ∧
      (outputs t).cmdReady = false ∧ (outputs t).rspValid = false ∧ t.lastVal = (s.startMiss k p).lastVal ∧
      t.lastPos.toNat = (s.startMiss k p).lastPos.toNat + ps.length ∧
      t.acc = (nx k s.step)^[ps.length] (s.startMiss k p).acc

/-- R14, R45, R121, R129: any command stream, run edge by edge by a host that keeps offering and takes responses at
once, ends within `TABLE_LEN` + 1 edges a command, 129 on this hardware, in the state, and with the observed responses,
of its transactions; R32: for all constants and widths, and so for this hardware's. (The observed words and the hidden
`tgt` are as in log entries 7, 15 and 16; other constants as in log entry 9.) -/
def Obligations.EdgesRefineCommandStreams : Prop :=
  ∀ (posW accW outW : Nat) (k : Params) (is : List Instr) (s : State.At posW accW outW), cmdReady s = true →
    ∃ n t, n ≤ (Config.tableLen posW + 1) * is.length ∧ runCommands k is s = .next t ∧ cmdReady t = true ∧
      patientRun k n is s = .next ([], t)

/-! ## Command streams -/

/-- R45, R53, R132: the steps of a block whose host offers a command stream and takes each response run exactly the
stream's transactions, after which the run is over. (The host's samples and its observation are the model's own fields,
log entries 2, 3 and 15; when a run is over, log entry 23.) -/
def Obligations.StepsRunTheCommandStream : Prop :=
  ∀ (is : List Instr) (s : State), cmdReady s = true → s.inputs = portSamples is →
    ∃ t, Host.Core.run core (2 * is.length) s = .next t ∧ runCommands block is { s with inputs := [] } = .next t ∧
      runOver t = true

/-- R29, R89, R132: the responses of every command stream, from every state with the invariants, are those of the closed
form, which has no cache, accumulator or walk. (The responses are read off the model's own `observed`, log entry 15.) -/
def Obligations.StreamResponsesAreTheClosedForm : Prop :=
  ∀ (is : List Instr) (s : State), CommandInv s → s.rspValid = false →
    ∃ t, runCommands block is s = .next t ∧ CommandInv t ∧ t.observed = s.observed ++ closedFormResponses s.step is

/-! ## The constants -/

/-- R6, R32: the step relation takes the constants as parameters; this hardware's step, commands and initial state are
those of R6's values, `State` being the state at R6's widths; and `RESET_STEP` is R6's value, and legal whatever the
constants (U5). -/
def Obligations.StepAtTheConstantsOfR6 : Prop :=
  block = { argW := 32, frac := 24, varMax := 59, stepBase := 2 ^ 24, stepInc := 1441792, syncBit := 31, outOffset := -64,
            resetVariant := 0 } ∧
  Config.tableLen 7 = 128 ∧ State = State.At 7 32 32 ∧ (∀ s : State, step s = stepAt block s) ∧
  (∀ (i : Instr) (s : State), exec i s = execAt block i s) ∧ State.reset = State.resetAt block ∧
  block.resetStep = 2 ^ 24 ∧ (∀ (accW : Nat) (k : Params), LegalStep k (BitVec.ofNat accW k.resetStep))
end

