-- ==== Sys2Proof/Laws/Config.lean ====
section
/-! SUPPORT. What follows from the constants of this hardware (spec/00_scope.md R6): the constants themselves are seen
through `block` by simp. -/

namespace Sys2Proof.Config

@[simp] theorem block_outOffsetWord : block.outOffsetWord = -1073741824 := rfl
@[simp] theorem block_outAtZero : (block.outAtZero : Word) = 0xC0000000#32 := rfl
@[simp] theorem block_resetStep : block.resetStep = 16777216 := rfl

/-- U5: another `RESET_STEP` changes no output word. -/
@[simp] theorem outAtZero_resetVariant (v : Nat) :
    (({ resetVariant := v } : Params).outAtZero : Word) = 0xC0000000#32 := by
  show toS 32 (-64 * 2 ^ 24) = _
  decide

/-- R6, R55: on this hardware the block reads the whole argument of the port. -/
@[simp] theorem portArg_block (arg : Word) : Machine.portArg block arg = arg := BitVec.signExtend_eq arg

end Sys2Proof.Config
end

