-- ==== Sys2Proof/Laws/Decode.lean ====
section
/-! SUPPORT. The command word's fields, and what the decoder can answer, said once (spec/30_encoding.md R54, R57, R58). -/

namespace Sys2Proof.Laws

/-- R54: each bit of a command word. -/
theorem getLsbD_commandWord (op : BitVec 2) (arg : Word) (k : Nat) :
    (commandWord op arg).getLsbD k = if k < 32 then arg.getLsbD k else op.getLsbD (k - 32) := by
  have h := BitVec.getLsbD_append (x := op) (y := arg) (i := k)
  rw [commandWord]
  exact h

@[simp] theorem opField_commandWord (op : BitVec 2) (arg : Word) : opField (commandWord op arg) = op := by
  apply BitVec.eq_of_getLsbD_eq
  intro k hk
  simp [opField, getLsbD_commandWord, hk]

@[simp] theorem argField_commandWord (op : BitVec 2) (arg : Word) : argField (commandWord op arg) = arg := by
  apply BitVec.eq_of_getLsbD_eq
  intro k hk
  simp [argField, getLsbD_commandWord, hk]

@[simp] theorem commandWord_fields (c : CommandWord) : commandWord (opField c) (argField c) = c := by
  apply BitVec.eq_of_getLsbD_eq
  intro k hk
  simp only [getLsbD_commandWord, opField, argField, BitVec.getLsbD_extractLsb']
  by_cases h : k < 32
  · simp [h]
  · have h2 : k - 32 < 2 := by omega
    have h3 : 32 + (k - 32) = k := by omega
    simp [h, h2, h3]

/-- Everything the decoder can answer. -/
theorem decode_cases (c : CommandWord) :
    (opField c = 1#2 ∧ decode c = .ok (.setwave (argField c))) ∨
    (opField c = 2#2 ∧ decode c = .ok (.get (argField c))) ∨
    (opField c = 3#2 ∧ decode c = .ok .reset) ∨
    (opField c = 0#2 ∧ decode c = .error .reservedOpcode) := by
  have h : ∀ op : BitVec 2, op = 1#2 ∨ op = 2#2 ∨ op = 3#2 ∨ op = 0#2 := by decide
  rcases h (opField c) with h | h | h | h <;> simp [decode, h]

end Sys2Proof.Laws
end

