-- ==== Sys2Proof/Laws/State.lean ====
section
/-! SUPPORT. One lemma per field per named update of the state, so that no proof unfolds a record update. -/

namespace Sys2Proof.Machine.State.At

open Config (Params)

variable {posW accW outW : Nat} (s : State.At posW accW outW)

/-! `resetAt`, and with it `resetWith` (R30, R115, R117, U5) -/

@[simp] theorem resetWith_eq (v : Nat) : State.resetWith v = State.resetAt { resetVariant := v } := rfl

@[simp] theorem resetAt_step (k : Params) : (State.resetAt k : State.At posW accW outW).step = BitVec.ofNat accW k.resetStep := rfl
@[simp] theorem resetAt_acc (k : Params) : (State.resetAt k : State.At posW accW outW).acc = 0#accW := rfl
@[simp] theorem resetAt_lastPos (k : Params) : (State.resetAt k : State.At posW accW outW).lastPos = 0#posW := rfl
@[simp] theorem resetAt_lastVal (k : Params) : (State.resetAt k : State.At posW accW outW).lastVal = k.outAtZero := rfl
@[simp] theorem resetAt_prevPos (k : Params) : (State.resetAt k : State.At posW accW outW).prevPos = 0#posW := rfl
@[simp] theorem resetAt_prevVal (k : Params) : (State.resetAt k : State.At posW accW outW).prevVal = k.outAtZero := rfl
@[simp] theorem resetAt_fsm (k : Params) : (State.resetAt k : State.At posW accW outW).fsm = .idle := rfl
@[simp] theorem resetAt_rspValid (k : Params) : (State.resetAt k : State.At posW accW outW).rspValid = false := rfl
@[simp] theorem resetAt_rstQ (k : Params) : (State.resetAt k : State.At posW accW outW).rstQ = true := rfl
@[simp] theorem resetAt_inputs (k : Params) : (State.resetAt k : State.At posW accW outW).inputs = [] := rfl
@[simp] theorem resetAt_observed (k : Params) : (State.resetAt k : State.At posW accW outW).observed = [] := rfl

/-! `setStep` (R70) -/

@[simp] theorem setStep_step (w : BitVec accW) : (s.setStep w).step = w := rfl
@[simp] theorem setStep_acc (w : BitVec accW) : (s.setStep w).acc = s.acc := rfl
@[simp] theorem setStep_lastPos (w : BitVec accW) : (s.setStep w).lastPos = s.lastPos := rfl
@[simp] theorem setStep_lastVal (w : BitVec accW) : (s.setStep w).lastVal = s.lastVal := rfl
@[simp] theorem setStep_prevPos (w : BitVec accW) : (s.setStep w).prevPos = s.prevPos := rfl
@[simp] theorem setStep_prevVal (w : BitVec accW) : (s.setStep w).prevVal = s.prevVal := rfl
@[simp] theorem setStep_fsm (w : BitVec accW) : (s.setStep w).fsm = s.fsm := rfl
@[simp] theorem setStep_tgt (w : BitVec accW) : (s.setStep w).tgt = s.tgt := rfl
@[simp] theorem setStep_rspData (w : BitVec accW) : (s.setStep w).rspData = s.rspData := rfl
@[simp] theorem setStep_rspValid (w : BitVec accW) : (s.setStep w).rspValid = s.rspValid := rfl
@[simp] theorem setStep_rstQ (w : BitVec accW) : (s.setStep w).rstQ = s.rstQ := rfl
@[simp] theorem setStep_inputs (w : BitVec accW) : (s.setStep w).inputs = s.inputs := rfl
@[simp] theorem setStep_observed (w : BitVec accW) : (s.setStep w).observed = s.observed := rfl
@[simp] theorem setStep_rspDraws (w : BitVec accW) : (s.setStep w).rspDraws = s.rspDraws := rfl
@[simp] theorem setStep_tgtDraws (w : BitVec accW) : (s.setStep w).tgtDraws = s.tgtDraws := rfl

/-! `restart` (R72) -/

@[simp] theorem restart_step (k : Params) : (s.restart k).step = s.step := rfl
@[simp] theorem restart_acc (k : Params) : (s.restart k).acc = 0#accW := rfl
@[simp] theorem restart_lastPos (k : Params) : (s.restart k).lastPos = 0#posW := rfl
@[simp] theorem restart_lastVal (k : Params) : (s.restart k).lastVal = k.outAtZero := rfl
@[simp] theorem restart_prevPos (k : Params) : (s.restart k).prevPos = 0#posW := rfl
@[simp] theorem restart_prevVal (k : Params) : (s.restart k).prevVal = k.outAtZero := rfl
@[simp] theorem restart_fsm (k : Params) : (s.restart k).fsm = s.fsm := rfl
@[simp] theorem restart_tgt (k : Params) : (s.restart k).tgt = s.tgt := rfl
@[simp] theorem restart_rspData (k : Params) : (s.restart k).rspData = s.rspData := rfl
@[simp] theorem restart_rspValid (k : Params) : (s.restart k).rspValid = s.rspValid := rfl
@[simp] theorem restart_rstQ (k : Params) : (s.restart k).rstQ = s.rstQ := rfl
@[simp] theorem restart_inputs (k : Params) : (s.restart k).inputs = s.inputs := rfl
@[simp] theorem restart_observed (k : Params) : (s.restart k).observed = s.observed := rfl
@[simp] theorem restart_rspDraws (k : Params) : (s.restart k).rspDraws = s.rspDraws := rfl
@[simp] theorem restart_tgtDraws (k : Params) : (s.restart k).tgtDraws = s.tgtDraws := rfl

/-! `shiftCache` (R84) -/

@[simp] theorem shiftCache_step : s.shiftCache.step = s.step := rfl
@[simp] theorem shiftCache_acc : s.shiftCache.acc = s.acc := rfl
@[simp] theorem shiftCache_lastPos : s.shiftCache.lastPos = s.lastPos := rfl
@[simp] theorem shiftCache_lastVal : s.shiftCache.lastVal = s.lastVal := rfl
@[simp] theorem shiftCache_prevPos : s.shiftCache.prevPos = s.lastPos := rfl
@[simp] theorem shiftCache_prevVal : s.shiftCache.prevVal = s.lastVal := rfl
@[simp] theorem shiftCache_fsm : s.shiftCache.fsm = s.fsm := rfl
@[simp] theorem shiftCache_tgt : s.shiftCache.tgt = s.tgt := rfl
@[simp] theorem shiftCache_rspData : s.shiftCache.rspData = s.rspData := rfl
@[simp] theorem shiftCache_rspValid : s.shiftCache.rspValid = s.rspValid := rfl
@[simp] theorem shiftCache_rstQ : s.shiftCache.rstQ = s.rstQ := rfl
@[simp] theorem shiftCache_inputs : s.shiftCache.inputs = s.inputs := rfl
@[simp] theorem shiftCache_observed : s.shiftCache.observed = s.observed := rfl
@[simp] theorem shiftCache_rspDraws : s.shiftCache.rspDraws = s.rspDraws := rfl
@[simp] theorem shiftCache_tgtDraws : s.shiftCache.tgtDraws = s.tgtDraws := rfl

/-! `rewind` (R85) -/

@[simp] theorem rewind_step (k : Params) : (s.rewind k).step = s.step := rfl
@[simp] theorem rewind_acc (k : Params) : (s.rewind k).acc = 0#accW := rfl
@[simp] theorem rewind_lastPos (k : Params) : (s.rewind k).lastPos = 0#posW := rfl
@[simp] theorem rewind_lastVal (k : Params) : (s.rewind k).lastVal = k.outAtZero := rfl
@[simp] theorem rewind_prevPos (k : Params) : (s.rewind k).prevPos = s.prevPos := rfl
@[simp] theorem rewind_prevVal (k : Params) : (s.rewind k).prevVal = s.prevVal := rfl
@[simp] theorem rewind_fsm (k : Params) : (s.rewind k).fsm = s.fsm := rfl
@[simp] theorem rewind_tgt (k : Params) : (s.rewind k).tgt = s.tgt := rfl
@[simp] theorem rewind_rspData (k : Params) : (s.rewind k).rspData = s.rspData := rfl
@[simp] theorem rewind_rspValid (k : Params) : (s.rewind k).rspValid = s.rspValid := rfl
@[simp] theorem rewind_rstQ (k : Params) : (s.rewind k).rstQ = s.rstQ := rfl
@[simp] theorem rewind_inputs (k : Params) : (s.rewind k).inputs = s.inputs := rfl
@[simp] theorem rewind_observed (k : Params) : (s.rewind k).observed = s.observed := rfl
@[simp] theorem rewind_rspDraws (k : Params) : (s.rewind k).rspDraws = s.rspDraws := rfl
@[simp] theorem rewind_tgtDraws (k : Params) : (s.rewind k).tgtDraws = s.tgtDraws := rfl

/-! `walkOnce` (R87) -/

@[simp] theorem walkOnce_step (k : Params) : (s.walkOnce k).step = s.step := rfl
@[simp] theorem walkOnce_acc (k : Params) : (s.walkOnce k).acc = nx k s.step s.acc := rfl
@[simp] theorem walkOnce_lastPos (k : Params) : (s.walkOnce k).lastPos = s.lastPos + 1#posW := rfl
@[simp] theorem walkOnce_lastVal (k : Params) : (s.walkOnce k).lastVal = s.lastVal := rfl
@[simp] theorem walkOnce_prevPos (k : Params) : (s.walkOnce k).prevPos = s.prevPos := rfl
@[simp] theorem walkOnce_prevVal (k : Params) : (s.walkOnce k).prevVal = s.prevVal := rfl
@[simp] theorem walkOnce_fsm (k : Params) : (s.walkOnce k).fsm = s.fsm := rfl
@[simp] theorem walkOnce_tgt (k : Params) : (s.walkOnce k).tgt = s.tgt := rfl
@[simp] theorem walkOnce_rspData (k : Params) : (s.walkOnce k).rspData = s.rspData := rfl
@[simp] theorem walkOnce_rspValid (k : Params) : (s.walkOnce k).rspValid = s.rspValid := rfl
@[simp] theorem walkOnce_rstQ (k : Params) : (s.walkOnce k).rstQ = s.rstQ := rfl
@[simp] theorem walkOnce_inputs (k : Params) : (s.walkOnce k).inputs = s.inputs := rfl
@[simp] theorem walkOnce_observed (k : Params) : (s.walkOnce k).observed = s.observed := rfl
@[simp] theorem walkOnce_rspDraws (k : Params) : (s.walkOnce k).rspDraws = s.rspDraws := rfl
@[simp] theorem walkOnce_tgtDraws (k : Params) : (s.walkOnce k).tgtDraws = s.tgtDraws := rfl

/-! `fillLast` (R94) -/

@[simp] theorem fillLast_step (k : Params) : (s.fillLast k).step = s.step := rfl
@[simp] theorem fillLast_acc (k : Params) : (s.fillLast k).acc = s.acc := rfl
@[simp] theorem fillLast_lastPos (k : Params) : (s.fillLast k).lastPos = s.lastPos := rfl
@[simp] theorem fillLast_lastVal (k : Params) : (s.fillLast k).lastVal = quantize k s.acc := rfl
@[simp] theorem fillLast_prevPos (k : Params) : (s.fillLast k).prevPos = s.prevPos := rfl
@[simp] theorem fillLast_prevVal (k : Params) : (s.fillLast k).prevVal = s.prevVal := rfl
@[simp] theorem fillLast_fsm (k : Params) : (s.fillLast k).fsm = s.fsm := rfl
@[simp] theorem fillLast_tgt (k : Params) : (s.fillLast k).tgt = s.tgt := rfl
@[simp] theorem fillLast_rspData (k : Params) : (s.fillLast k).rspData = s.rspData := rfl
@[simp] theorem fillLast_rspValid (k : Params) : (s.fillLast k).rspValid = s.rspValid := rfl
@[simp] theorem fillLast_rstQ (k : Params) : (s.fillLast k).rstQ = s.rstQ := rfl
@[simp] theorem fillLast_inputs (k : Params) : (s.fillLast k).inputs = s.inputs := rfl
@[simp] theorem fillLast_observed (k : Params) : (s.fillLast k).observed = s.observed := rfl
@[simp] theorem fillLast_rspDraws (k : Params) : (s.fillLast k).rspDraws = s.rspDraws := rfl
@[simp] theorem fillLast_tgtDraws (k : Params) : (s.fillLast k).tgtDraws = s.tgtDraws := rfl

/-! `respond` (R56) -/

@[simp] theorem respond_step (w : BitVec outW) : (s.respond w).step = s.step := rfl
@[simp] theorem respond_acc (w : BitVec outW) : (s.respond w).acc = s.acc := rfl
@[simp] theorem respond_lastPos (w : BitVec outW) : (s.respond w).lastPos = s.lastPos := rfl
@[simp] theorem respond_lastVal (w : BitVec outW) : (s.respond w).lastVal = s.lastVal := rfl
@[simp] theorem respond_prevPos (w : BitVec outW) : (s.respond w).prevPos = s.prevPos := rfl
@[simp] theorem respond_prevVal (w : BitVec outW) : (s.respond w).prevVal = s.prevVal := rfl
@[simp] theorem respond_fsm (w : BitVec outW) : (s.respond w).fsm = s.fsm := rfl
@[simp] theorem respond_tgt (w : BitVec outW) : (s.respond w).tgt = s.tgt := rfl
@[simp] theorem respond_rspData (w : BitVec outW) : (s.respond w).rspData = w := rfl
@[simp] theorem respond_rspValid (w : BitVec outW) : (s.respond w).rspValid = true := rfl
@[simp] theorem respond_rstQ (w : BitVec outW) : (s.respond w).rstQ = s.rstQ := rfl
@[simp] theorem respond_inputs (w : BitVec outW) : (s.respond w).inputs = s.inputs := rfl
@[simp] theorem respond_observed (w : BitVec outW) : (s.respond w).observed = s.observed := rfl
@[simp] theorem respond_rspDraws (w : BitVec outW) : (s.respond w).rspDraws = s.rspDraws := rfl
@[simp] theorem respond_tgtDraws (w : BitVec outW) : (s.respond w).tgtDraws = s.tgtDraws := rfl

/-! `takeResponse` (R128) -/

@[simp] theorem takeResponse_step : s.takeResponse.step = s.step := rfl
@[simp] theorem takeResponse_acc : s.takeResponse.acc = s.acc := rfl
@[simp] theorem takeResponse_lastPos : s.takeResponse.lastPos = s.lastPos := rfl
@[simp] theorem takeResponse_lastVal : s.takeResponse.lastVal = s.lastVal := rfl
@[simp] theorem takeResponse_prevPos : s.takeResponse.prevPos = s.prevPos := rfl
@[simp] theorem takeResponse_prevVal : s.takeResponse.prevVal = s.prevVal := rfl
@[simp] theorem takeResponse_fsm : s.takeResponse.fsm = s.fsm := rfl
@[simp] theorem takeResponse_tgt : s.takeResponse.tgt = s.tgt := rfl
@[simp] theorem takeResponse_rspData : s.takeResponse.rspData = Config.unspecifiedRspData outW s.rspDraws := rfl
@[simp] theorem takeResponse_rspValid : s.takeResponse.rspValid = false := rfl
@[simp] theorem takeResponse_rstQ : s.takeResponse.rstQ = s.rstQ := rfl
@[simp] theorem takeResponse_inputs : s.takeResponse.inputs = s.inputs := rfl
@[simp] theorem takeResponse_observed : s.takeResponse.observed = s.observed ++ [s.rspData] := rfl
@[simp] theorem takeResponse_rspDraws : s.takeResponse.rspDraws = s.rspDraws + 1 := rfl
@[simp] theorem takeResponse_tgtDraws : s.takeResponse.tgtDraws = s.tgtDraws := rfl

/-! `hardwareReset` (R115) -/

@[simp] theorem hardwareReset_step (k : Params) : (s.hardwareReset k).step = BitVec.ofNat accW k.resetStep := rfl
@[simp] theorem hardwareReset_acc (k : Params) : (s.hardwareReset k).acc = 0#accW := rfl
@[simp] theorem hardwareReset_lastPos (k : Params) : (s.hardwareReset k).lastPos = 0#posW := rfl
@[simp] theorem hardwareReset_lastVal (k : Params) : (s.hardwareReset k).lastVal = k.outAtZero := rfl
@[simp] theorem hardwareReset_prevPos (k : Params) : (s.hardwareReset k).prevPos = 0#posW := rfl
@[simp] theorem hardwareReset_prevVal (k : Params) : (s.hardwareReset k).prevVal = k.outAtZero := rfl
@[simp] theorem hardwareReset_fsm (k : Params) : (s.hardwareReset k).fsm = .idle := rfl
@[simp] theorem hardwareReset_tgt (k : Params) : (s.hardwareReset k).tgt = Config.unspecifiedTgt posW s.tgtDraws := rfl
@[simp] theorem hardwareReset_rspData (k : Params) : (s.hardwareReset k).rspData = Config.unspecifiedRspData outW s.rspDraws := rfl
@[simp] theorem hardwareReset_rspValid (k : Params) : (s.hardwareReset k).rspValid = false := rfl
@[simp] theorem hardwareReset_rstQ (k : Params) : (s.hardwareReset k).rstQ = true := rfl
@[simp] theorem hardwareReset_inputs (k : Params) : (s.hardwareReset k).inputs = s.inputs := rfl
@[simp] theorem hardwareReset_observed (k : Params) : (s.hardwareReset k).observed = s.observed := rfl
@[simp] theorem hardwareReset_rspDraws (k : Params) : (s.hardwareReset k).rspDraws = s.rspDraws + 1 := rfl
@[simp] theorem hardwareReset_tgtDraws (k : Params) : (s.hardwareReset k).tgtDraws = s.tgtDraws + 1 := rfl

/-! `sampleRst` (R52) -/

@[simp] theorem sampleRst_step (b : Bool) : (s.sampleRst b).step = s.step := rfl
@[simp] theorem sampleRst_acc (b : Bool) : (s.sampleRst b).acc = s.acc := rfl
@[simp] theorem sampleRst_lastPos (b : Bool) : (s.sampleRst b).lastPos = s.lastPos := rfl
@[simp] theorem sampleRst_lastVal (b : Bool) : (s.sampleRst b).lastVal = s.lastVal := rfl
@[simp] theorem sampleRst_prevPos (b : Bool) : (s.sampleRst b).prevPos = s.prevPos := rfl
@[simp] theorem sampleRst_prevVal (b : Bool) : (s.sampleRst b).prevVal = s.prevVal := rfl
@[simp] theorem sampleRst_fsm (b : Bool) : (s.sampleRst b).fsm = s.fsm := rfl
@[simp] theorem sampleRst_tgt (b : Bool) : (s.sampleRst b).tgt = s.tgt := rfl
@[simp] theorem sampleRst_rspData (b : Bool) : (s.sampleRst b).rspData = s.rspData := rfl
@[simp] theorem sampleRst_rspValid (b : Bool) : (s.sampleRst b).rspValid = s.rspValid := rfl
@[simp] theorem sampleRst_rstQ (b : Bool) : (s.sampleRst b).rstQ = b := rfl
@[simp] theorem sampleRst_inputs (b : Bool) : (s.sampleRst b).inputs = s.inputs := rfl
@[simp] theorem sampleRst_observed (b : Bool) : (s.sampleRst b).observed = s.observed := rfl
@[simp] theorem sampleRst_rspDraws (b : Bool) : (s.sampleRst b).rspDraws = s.rspDraws := rfl
@[simp] theorem sampleRst_tgtDraws (b : Bool) : (s.sampleRst b).tgtDraws = s.tgtDraws := rfl

/-! `startWalk` (R126) -/

@[simp] theorem startWalk_step (p : BitVec posW) : (s.startWalk p).step = s.step := rfl
@[simp] theorem startWalk_acc (p : BitVec posW) : (s.startWalk p).acc = s.acc := rfl
@[simp] theorem startWalk_lastPos (p : BitVec posW) : (s.startWalk p).lastPos = s.lastPos := rfl
@[simp] theorem startWalk_lastVal (p : BitVec posW) : (s.startWalk p).lastVal = s.lastVal := rfl
@[simp] theorem startWalk_prevPos (p : BitVec posW) : (s.startWalk p).prevPos = s.prevPos := rfl
@[simp] theorem startWalk_prevVal (p : BitVec posW) : (s.startWalk p).prevVal = s.prevVal := rfl
@[simp] theorem startWalk_fsm (p : BitVec posW) : (s.startWalk p).fsm = .walk := rfl
@[simp] theorem startWalk_tgt (p : BitVec posW) : (s.startWalk p).tgt = p := rfl
@[simp] theorem startWalk_rspData (p : BitVec posW) : (s.startWalk p).rspData = s.rspData := rfl
@[simp] theorem startWalk_rspValid (p : BitVec posW) : (s.startWalk p).rspValid = s.rspValid := rfl
@[simp] theorem startWalk_rstQ (p : BitVec posW) : (s.startWalk p).rstQ = s.rstQ := rfl
@[simp] theorem startWalk_inputs (p : BitVec posW) : (s.startWalk p).inputs = s.inputs := rfl
@[simp] theorem startWalk_observed (p : BitVec posW) : (s.startWalk p).observed = s.observed := rfl
@[simp] theorem startWalk_rspDraws (p : BitVec posW) : (s.startWalk p).rspDraws = s.rspDraws := rfl
@[simp] theorem startWalk_tgtDraws (p : BitVec posW) : (s.startWalk p).tgtDraws = s.tgtDraws := rfl

/-! `forgetTarget` (R27) -/

@[simp] theorem forgetTarget_step : s.forgetTarget.step = s.step := rfl
@[simp] theorem forgetTarget_acc : s.forgetTarget.acc = s.acc := rfl
@[simp] theorem forgetTarget_lastPos : s.forgetTarget.lastPos = s.lastPos := rfl
@[simp] theorem forgetTarget_lastVal : s.forgetTarget.lastVal = s.lastVal := rfl
@[simp] theorem forgetTarget_prevPos : s.forgetTarget.prevPos = s.prevPos := rfl
@[simp] theorem forgetTarget_prevVal : s.forgetTarget.prevVal = s.prevVal := rfl
@[simp] theorem forgetTarget_fsm : s.forgetTarget.fsm = s.fsm := rfl
@[simp] theorem forgetTarget_tgt : s.forgetTarget.tgt = Config.unspecifiedTgt posW s.tgtDraws := rfl
@[simp] theorem forgetTarget_rspData : s.forgetTarget.rspData = s.rspData := rfl
@[simp] theorem forgetTarget_rspValid : s.forgetTarget.rspValid = s.rspValid := rfl
@[simp] theorem forgetTarget_rstQ : s.forgetTarget.rstQ = s.rstQ := rfl
@[simp] theorem forgetTarget_inputs : s.forgetTarget.inputs = s.inputs := rfl
@[simp] theorem forgetTarget_observed : s.forgetTarget.observed = s.observed := rfl
@[simp] theorem forgetTarget_rspDraws : s.forgetTarget.rspDraws = s.rspDraws := rfl
@[simp] theorem forgetTarget_tgtDraws : s.forgetTarget.tgtDraws = s.tgtDraws + 1 := rfl

/-! `endWalk` (R127) -/

@[simp] theorem endWalk_step : s.endWalk.step = s.step := rfl
@[simp] theorem endWalk_acc : s.endWalk.acc = s.acc := rfl
@[simp] theorem endWalk_lastPos : s.endWalk.lastPos = s.lastPos := rfl
@[simp] theorem endWalk_lastVal : s.endWalk.lastVal = s.lastVal := rfl
@[simp] theorem endWalk_prevPos : s.endWalk.prevPos = s.prevPos := rfl
@[simp] theorem endWalk_prevVal : s.endWalk.prevVal = s.prevVal := rfl
@[simp] theorem endWalk_fsm : s.endWalk.fsm = .idle := rfl
@[simp] theorem endWalk_tgt : s.endWalk.tgt = Config.unspecifiedTgt posW s.tgtDraws := rfl
@[simp] theorem endWalk_rspData : s.endWalk.rspData = s.rspData := rfl
@[simp] theorem endWalk_rspValid : s.endWalk.rspValid = s.rspValid := rfl
@[simp] theorem endWalk_rstQ : s.endWalk.rstQ = s.rstQ := rfl
@[simp] theorem endWalk_inputs : s.endWalk.inputs = s.inputs := rfl
@[simp] theorem endWalk_observed : s.endWalk.observed = s.observed := rfl
@[simp] theorem endWalk_rspDraws : s.endWalk.rspDraws = s.rspDraws := rfl
@[simp] theorem endWalk_tgtDraws : s.endWalk.tgtDraws = s.tgtDraws + 1 := rfl

/-! `popInputs` (the host's next sample) -/

@[simp] theorem popInputs_step : s.popInputs.step = s.step := rfl
@[simp] theorem popInputs_acc : s.popInputs.acc = s.acc := rfl
@[simp] theorem popInputs_lastPos : s.popInputs.lastPos = s.lastPos := rfl
@[simp] theorem popInputs_lastVal : s.popInputs.lastVal = s.lastVal := rfl
@[simp] theorem popInputs_prevPos : s.popInputs.prevPos = s.prevPos := rfl
@[simp] theorem popInputs_prevVal : s.popInputs.prevVal = s.prevVal := rfl
@[simp] theorem popInputs_fsm : s.popInputs.fsm = s.fsm := rfl
@[simp] theorem popInputs_tgt : s.popInputs.tgt = s.tgt := rfl
@[simp] theorem popInputs_rspData : s.popInputs.rspData = s.rspData := rfl
@[simp] theorem popInputs_rspValid : s.popInputs.rspValid = s.rspValid := rfl
@[simp] theorem popInputs_rstQ : s.popInputs.rstQ = s.rstQ := rfl
@[simp] theorem popInputs_inputs : s.popInputs.inputs = s.inputs.tail := rfl
@[simp] theorem popInputs_observed : s.popInputs.observed = s.observed := rfl
@[simp] theorem popInputs_rspDraws : s.popInputs.rspDraws = s.rspDraws := rfl
@[simp] theorem popInputs_tgtDraws : s.popInputs.tgtDraws = s.tgtDraws := rfl

/-! `pushInput` (the host's next sample) -/

@[simp] theorem pushInput_step (p : Pins) : (s.pushInput p).step = s.step := rfl
@[simp] theorem pushInput_acc (p : Pins) : (s.pushInput p).acc = s.acc := rfl
@[simp] theorem pushInput_lastPos (p : Pins) : (s.pushInput p).lastPos = s.lastPos := rfl
@[simp] theorem pushInput_lastVal (p : Pins) : (s.pushInput p).lastVal = s.lastVal := rfl
@[simp] theorem pushInput_prevPos (p : Pins) : (s.pushInput p).prevPos = s.prevPos := rfl
@[simp] theorem pushInput_prevVal (p : Pins) : (s.pushInput p).prevVal = s.prevVal := rfl
@[simp] theorem pushInput_fsm (p : Pins) : (s.pushInput p).fsm = s.fsm := rfl
@[simp] theorem pushInput_tgt (p : Pins) : (s.pushInput p).tgt = s.tgt := rfl
@[simp] theorem pushInput_rspData (p : Pins) : (s.pushInput p).rspData = s.rspData := rfl
@[simp] theorem pushInput_rspValid (p : Pins) : (s.pushInput p).rspValid = s.rspValid := rfl
@[simp] theorem pushInput_rstQ (p : Pins) : (s.pushInput p).rstQ = s.rstQ := rfl
@[simp] theorem pushInput_inputs (p : Pins) : (s.pushInput p).inputs = p :: s.inputs := rfl
@[simp] theorem pushInput_observed (p : Pins) : (s.pushInput p).observed = s.observed := rfl
@[simp] theorem pushInput_rspDraws (p : Pins) : (s.pushInput p).rspDraws = s.rspDraws := rfl
@[simp] theorem pushInput_tgtDraws (p : Pins) : (s.pushInput p).tgtDraws = s.tgtDraws := rfl

/-! `offerNext` (the host's next sample) -/

@[simp] theorem offerNext_step (c : CommandWord) : (s.offerNext c).step = s.step := rfl
@[simp] theorem offerNext_acc (c : CommandWord) : (s.offerNext c).acc = s.acc := rfl
@[simp] theorem offerNext_lastPos (c : CommandWord) : (s.offerNext c).lastPos = s.lastPos := rfl
@[simp] theorem offerNext_lastVal (c : CommandWord) : (s.offerNext c).lastVal = s.lastVal := rfl
@[simp] theorem offerNext_prevPos (c : CommandWord) : (s.offerNext c).prevPos = s.prevPos := rfl
@[simp] theorem offerNext_prevVal (c : CommandWord) : (s.offerNext c).prevVal = s.prevVal := rfl
@[simp] theorem offerNext_fsm (c : CommandWord) : (s.offerNext c).fsm = .idle := rfl
@[simp] theorem offerNext_tgt (c : CommandWord) : (s.offerNext c).tgt = s.tgt := rfl
@[simp] theorem offerNext_rspData (c : CommandWord) : (s.offerNext c).rspData = s.rspData := rfl
@[simp] theorem offerNext_rspValid (c : CommandWord) : (s.offerNext c).rspValid = false := rfl
@[simp] theorem offerNext_rstQ (c : CommandWord) : (s.offerNext c).rstQ = false := rfl
@[simp] theorem offerNext_inputs (c : CommandWord) : (s.offerNext c).inputs = offerPins c :: s.inputs := rfl
@[simp] theorem offerNext_observed (c : CommandWord) : (s.offerNext c).observed = s.observed := rfl
@[simp] theorem offerNext_rspDraws (c : CommandWord) : (s.offerNext c).rspDraws = s.rspDraws := rfl
@[simp] theorem offerNext_tgtDraws (c : CommandWord) : (s.offerNext c).tgtDraws = s.tgtDraws := rfl

end Sys2Proof.Machine.State.At
end

