-- ==== Sys2Proof/Laws/Ops.lean ====
section
/-! SUPPORT. For each shared operation of Machine/Ops.lean, one lemma that says once what it can do. -/

namespace Sys2Proof.Laws

open Sys2Proof.Machine
open Config (Params)

variable {posW accW outW : Nat}

/-- R52: when the block is ready. -/
theorem cmdReady_iff (s : State.At posW accW outW) : cmdReady s = true ↔ s.fsm = .idle ∧ s.rspValid = false ∧ s.rstQ = false := by
  simp [cmdReady, and_assoc]

/-- R53: when a command is accepted. -/
theorem accepts_iff (p : Pins) (s : State.At posW accW outW) :
    accepts p s = true ↔ p.rst = false ∧ p.cmdValid = true ∧ cmdReady s = true := by
  simp [accepts, and_assoc]

/-- R53: what the host offers is what stands on the port. -/
@[simp] theorem word_offerPins (c : CommandWord) : (offerPins c).word = c := by
  simp [offerPins, Pins.word]

/-- R54: the opcode of the word on the port. -/
@[simp] theorem opField_word (p : Pins) : opField p.word = p.cmdOp := by simp [Pins.word]

/-- R54: the argument of the word on the port. -/
@[simp] theorem argField_word (p : Pins) : argField p.word = p.cmdArg := by simp [Pins.word]

/-- R84, R85: everything that a miss does before it walks. -/
theorem startMiss_cases (k : Params) (p : BitVec posW) (s : State.At posW accW outW) :
    (p < s.lastPos ∧ s.startMiss k p = s.shiftCache.rewind k) ∨ (¬ p < s.lastPos ∧ s.startMiss k p = s.shiftCache) := by
  by_cases h : p < s.lastPos
  · exact .inl ⟨h, by simp [State.At.startMiss, h]⟩
  · exact .inr ⟨h, by simp [State.At.startMiss, h]⟩

/-- R23: below another position, a position's successor does not wrap. -/
theorem toNat_add_one {w : Nat} (x p : BitVec w) (h : x.toNat < p.toNat) : (x + 1#w).toNat = x.toNat + 1 := by
  have hp := p.isLt
  have h1 : 1 % 2 ^ w = 1 := Nat.mod_eq_of_lt (by omega)
  rw [BitVec.toNat_add, BitVec.toNat_ofNat, h1, Nat.mod_eq_of_lt (by omega)]

/-- R23: n successors of a position that does not pass another. -/
theorem toNat_add_ofNat {w : Nat} (x p : BitVec w) (n : Nat) (h : x.toNat + n ≤ p.toNat) :
    (x + BitVec.ofNat w n).toNat = x.toNat + n := by
  have hp := p.isLt
  rw [BitVec.toNat_add, BitVec.toNat_ofNat, Nat.mod_eq_of_lt (a := n) (by omega), Nat.mod_eq_of_lt (by omega)]

/-- R87: n walk steps change `acc` and `lastPos`, and nothing else. -/
theorem walkOnce_iterate (k : Params) (n : Nat) (s : State.At posW accW outW) :
    (State.At.walkOnce k)^[n] s = { s with acc := (nx k s.step)^[n] s.acc, lastPos := s.lastPos + BitVec.ofNat posW n } := by
  induction n generalizing s with
  | zero => simp
  | succ n ih =>
    rw [Function.iterate_succ_apply, ih, Function.iterate_succ_apply]
    simp only [State.At.walkOnce, State.At.mk.injEq, true_and, and_true]
    rw [BitVec.add_assoc, ← BitVec.ofNat_add, Nat.add_comm 1 n]

/-- R87: from a position not past the target, the walk loop with enough fuel runs exactly `p - lastPos` times. -/
theorem walkLoop_eq (k : Params) (p : BitVec posW) (n : Nat) (s : State.At posW accW outW) (hle : s.lastPos ≤ p)
    (hn : p.toNat - s.lastPos.toNat ≤ n) : s.walkLoop k p n = (State.At.walkOnce k)^[p.toNat - s.lastPos.toNat] s := by
  induction n generalizing s with
  | zero =>
    have : p.toNat - s.lastPos.toNat = 0 := by omega
    simp [State.At.walkLoop, this]
  | succ n ih =>
    have hle' : s.lastPos.toNat ≤ p.toNat := hle
    have hp := p.isLt
    by_cases h : s.lastPos = p
    · simp [State.At.walkLoop, h]
    · have hne : s.lastPos.toNat ≠ p.toNat := fun e => h (BitVec.eq_of_toNat_eq e)
      have hs : (s.lastPos + 1#posW).toNat = s.lastPos.toNat + 1 := toNat_add_one _ p (by omega)
      have hk : p.toNat - s.lastPos.toNat = (p.toNat - (s.walkOnce k).lastPos.toNat) + 1 := by
        rw [State.At.walkOnce_lastPos, hs]; omega
      have hle2 : (s.walkOnce k).lastPos ≤ p := by
        rw [BitVec.le_def, State.At.walkOnce_lastPos, hs]; omega
      rw [State.At.walkLoop, if_neg h, hk, Function.iterate_succ_apply]
      exact ih (s.walkOnce k) hle2 (by omega)

/-- R87: everything the walk does. -/
theorem walkTo_eq (k : Params) (p : BitVec posW) (s : State.At posW accW outW) (hle : s.lastPos ≤ p) :
    s.walkTo k p = { s with acc := (nx k s.step)^[p.toNat - s.lastPos.toNat] s.acc, lastPos := p } := by
  have hp := p.isLt
  have hle' : s.lastPos.toNat ≤ p.toNat := hle
  rw [State.At.walkTo, walkLoop_eq k p _ s hle (by simp only [Config.tableLen]; omega), walkOnce_iterate]
  congr 1
  apply BitVec.eq_of_toNat_eq
  rw [toNat_add_ofNat _ p _ (by omega)]
  omega

/-- R84, R85, R87: after what precedes the walk, the position is not past the target. -/
theorem startMiss_le (k : Params) (p : BitVec posW) (s : State.At posW accW outW) : (s.startMiss k p).lastPos ≤ p := by
  rcases startMiss_cases k p s with ⟨_, e⟩ | ⟨h, e⟩
  · rw [e, State.At.rewind_lastPos]
    exact Nat.zero_le _
  · rw [e, State.At.shiftCache_lastPos]
    exact BitVec.not_lt.mp h

end Sys2Proof.Laws
end

