-- ==== Sys2Proof/Laws/PerInstr.lean ====
section
/-! SUPPORT. What holds of every command as syntax, one lemma per constructor. -/

namespace Sys2Proof.Laws.OpcodeRow

/-- R57, spec/opcode_table.json: under the row's mask, a command's word is the row's match; and the mask is that of the
opcode field, so no argument bit selects the command. -/
def Statement (i : Instr) : Prop := encode i &&& rowMask = rowMatch i

theorem commandWord_masked (op : BitVec 2) (arg : Word) : commandWord op arg &&& rowMask = commandWord op 0#32 := by
  apply BitVec.eq_of_getLsbD_eq
  intro k hk
  simp only [rowMask, BitVec.getLsbD_and, getLsbD_commandWord, BitVec.getLsbD_zero]
  by_cases h : k < 32
  · have : (0x300000000#34).getLsbD k = false := by
      have : ∀ j : Fin 32, (0x300000000#34).getLsbD j.val = false := by decide
      exact this ⟨k, h⟩
    simp [h, this]
  · have hk' : k = 32 ∨ k = 33 := by omega
    rcases hk' with rfl | rfl <;> simp

theorem setwave (arg : Word) : Statement (.setwave arg) := by
  simp only [Statement, encode, commandWord_masked, opcodeOf, rowMatch]; decide

theorem get (arg : Word) : Statement (.get arg) := by
  simp only [Statement, encode, commandWord_masked, opcodeOf, rowMatch]; decide

theorem reset : Statement .reset := by
  simp only [Statement, encode, commandWord_masked, opcodeOf, rowMatch]; decide

end Sys2Proof.Laws.OpcodeRow
end

