-- ==== Sys2Proof/Laws/Step.lean ====
section
/-! SUPPORT. What an edge and a step can do, said once: every proof about a run cites these. -/

namespace Sys2Proof.Laws

open Sys2Proof.Machine
open Config (Params)

variable {argW posW accW outW : Nat}

/-- R57, R58, R64: everything an accepted command word can do. -/
theorem runAccepted_cases (run : Instr → State.At posW accW outW →
    Host.Outcome (State.At posW accW outW) Fault Refusal) (c : CommandWord) (s : State.At posW accW outW) :
    (∃ i, decode c = .ok i ∧ runAccepted run c s = run i s) ∨
    (opField c = 0#2 ∧ runAccepted run c s = .refused .reservedOpcode) := by
  rcases decode_cases c with ⟨_, h⟩ | ⟨_, h⟩ | ⟨_, h⟩ | ⟨h0, h⟩
  · exact .inl ⟨_, h, by simp [runAccepted, h]⟩
  · exact .inl ⟨_, h, by simp [runAccepted, h]⟩
  · exact .inl ⟨_, h, by simp [runAccepted, h]⟩
  · exact .inr ⟨h0, by simp [runAccepted, h]⟩

/-- R52: a ready block is out of reset, so the accepting edge's sample of `rst` changes nothing. -/
theorem sampleRst_of_ready (s : State.At posW accW outW) (h : cmdReady s = true) : s.sampleRst false = s := by
  obtain ⟨_, _, h3⟩ := (cmdReady_iff s).mp h
  simp only [State.At.sampleRst, ← h3]

/-- R6, R32: `exec` is a command's effect at this hardware's constants. -/
theorem exec_eq_execAt (i : Instr) (s : State) : exec i s = execAt Config.block i s := by
  cases i <;> simp only [execAt, Config.portArg_block] <;> rfl

/-- R70: everything SETWAVE does. -/
theorem exec_setwave (arg : Word) (s : State) :
    exec (.setwave arg) s =
      .next ((s.setStep (stepSize Config.block (variantOf Config.block arg))).restart Config.block) := rfl

/-- R72: everything RESET does. -/
theorem exec_reset (s : State) : exec .reset s = .next (s.restart Config.block) := rfl

/-- R6, R32: `step` is the step relation at this hardware's constants. -/
theorem step_eq_stepAt (s : State) : step s = stepAt Config.block s := by
  have h : exec = execAt Config.block := by funext i s; exact exec_eq_execAt i s
  rw [step, stepAt, h]

/-- R59, R100: every command has a next state. -/
theorem execAt_next (k : Params) (i : Instr) (s : State.At posW accW outW) : ∃ t, execAt k i s = .next t := by cases i <;> exact ⟨_, rfl⟩

/-- R103, R115, R125 to R128: everything a clock edge can do. -/
theorem clockEdge_cases (k : Params) (p : Pins) (s : State.At posW accW outW) :
    (p.rst = true ∧ clockEdge k p s = .next (s.hardwareReset k)) ∨
    (accepts p s = true ∧ ∃ i, decode p.word = .ok i ∧ clockEdge k p s = acceptEdge k i s) ∨
    (accepts p s = true ∧ p.cmdOp = 0#2 ∧ clockEdge k p s = .refused .reservedOpcode) ∨
    (p.rst = false ∧ accepts p s = false ∧ clockEdge k p s = .next (plainEdge k p (s.sampleRst false))) := by
  by_cases hr : p.rst = true
  · exact .inl ⟨hr, by simp [clockEdge, hr]⟩
  · have hr' : p.rst = false := by simpa using hr
    by_cases ha : accepts p s = true
    · have hs := sampleRst_of_ready s ((accepts_iff p s).mp ha).2.2
      have he : clockEdge k p s = runAccepted (acceptEdge k) p.word s := by simp [clockEdge, hr', ha, hs]
      rcases runAccepted_cases (acceptEdge k) p.word s with ⟨i, hd, h⟩ | ⟨h0, h⟩
      · exact .inr (.inl ⟨ha, i, hd, he.trans h⟩)
      · exact .inr (.inr (.inl ⟨ha, by simpa using h0, he.trans h⟩))
    · have ha' : accepts p s = false := by simpa using ha
      exact .inr (.inr (.inr ⟨hr', ha', by simp [clockEdge, hr', ha']⟩))

/-- R14, R53, R64: everything a step can do. -/
theorem step_cases (s : State) :
    (accepts (nextPins s) s = true ∧ ∃ i, decode (nextPins s).word = .ok i ∧ step s = exec i s.popInputs) ∨
    (accepts (nextPins s) s = true ∧ (nextPins s).cmdOp = 0#2 ∧ step s = .refused .reservedOpcode) ∨
    (accepts (nextPins s) s = false ∧ step s = clockEdge Config.block (nextPins s) s.popInputs) := by
  have hp : accepts (nextPins s) s.popInputs = accepts (nextPins s) s := rfl
  by_cases ha : accepts (nextPins s) s = true
  · rcases runAccepted_cases exec (nextPins s).word s.popInputs with ⟨i, hd, h⟩ | ⟨h0, h⟩
    · exact .inl ⟨ha, i, hd, by simp [step, stepOn, hp, ha, h]⟩
    · exact .inr (.inl ⟨ha, by simpa using h0, by simp [step, stepOn, hp, ha, h]⟩)
  · have ha' : accepts (nextPins s) s = false := by simpa using ha
    exact .inr (.inr ⟨ha', by simp [step, stepOn, hp, ha']⟩)

/-- The host's samples do not decide readiness. -/
theorem accepts_popInputs (p : Pins) (s : State) : accepts p s.popInputs = accepts p s := rfl

/-- R97: on a miss the walk length is how far the walk's start is from its target. -/
theorem walkLength_miss (k : Params) (p : BitVec posW) (s : State.At posW accW outW) (h1 : p ≠ s.lastPos) (h2 : p ≠ s.prevPos) :
    walkLength p s = p.toNat - (s.startMiss k p).lastPos.toNat := by
  rw [walkLength, getPath, if_neg h1, if_neg h2]
  rcases startMiss_cases k p s with ⟨hl, e⟩ | ⟨hl, e⟩
  · rw [if_pos hl, e]; simp
  · rw [if_neg hl, e]; simp

/-- R84 to R87, R94: everything a miss does to the registers of R80, its walk counted. -/
theorem missRegisters_eq (k : Params) (p : BitVec posW) (s : State.At posW accW outW) :
    missRegisters k p s =
      { s with
        acc := (nx k s.step)^[p.toNat - (s.startMiss k p).lastPos.toNat] (s.startMiss k p).acc
        lastPos := p
        lastVal := quantize k ((nx k s.step)^[p.toNat - (s.startMiss k p).lastPos.toNat] (s.startMiss k p).acc)
        prevPos := s.lastPos
        prevVal := s.lastVal } := by
  rw [missRegisters, walkTo_eq k p _ (startMiss_le k p s)]
  rcases startMiss_cases k p s with ⟨_, e⟩ | ⟨_, e⟩ <;> simp [e, State.At.fillLast, State.At.shiftCache, State.At.rewind]

/-- R27, R94, R126: everything a miss does, the hidden walk target with it. -/
theorem missEffect_eq (k : Params) (p : BitVec posW) (s : State.At posW accW outW) :
    missEffect k p s =
      { s with
        acc := (nx k s.step)^[p.toNat - (s.startMiss k p).lastPos.toNat] (s.startMiss k p).acc
        lastPos := p
        lastVal := quantize k ((nx k s.step)^[p.toNat - (s.startMiss k p).lastPos.toNat] (s.startMiss k p).acc)
        prevPos := s.lastPos
        prevVal := s.lastVal
        tgt := if walkLength p s = 0 then s.tgt else Config.unspecifiedTgt posW s.tgtDraws
        tgtDraws := if walkLength p s = 0 then s.tgtDraws else s.tgtDraws + 1 } := by
  rw [missEffect, missRegisters_eq]
  split <;> rfl

/-- R80: everything GET can do. -/
theorem getEffect_cases (k : Params) (arg : BitVec argW) (s : State.At posW accW outW) :
    (positionOf arg = s.lastPos ∧ getEffect k arg s = s.respond s.lastVal) ∨
    (positionOf arg ≠ s.lastPos ∧ positionOf arg = s.prevPos ∧ getEffect k arg s = s.respond s.prevVal) ∨
    (positionOf arg ≠ s.lastPos ∧ positionOf arg ≠ s.prevPos ∧
      getEffect k arg s = (missEffect k (positionOf arg) s).respond (missEffect k (positionOf arg) s).lastVal) := by
  by_cases h1 : positionOf arg = s.lastPos
  · exact .inl ⟨h1, by simp [getEffect, h1]⟩
  · by_cases h2 : positionOf arg = s.prevPos
    · exact .inr (.inl ⟨h1, h2, by simp only [getEffect]; rw [if_neg h1, if_pos h2]⟩)
    · exact .inr (.inr ⟨h1, h2, by simp only [getEffect]; rw [if_neg h1, if_neg h2]⟩)

/-- R80: everything `exec` of a GET can do. -/
theorem execGet_cases (arg : Word) (s : State) :
    (positionOf arg = s.lastPos ∧ execGet arg s = .next (s.respond s.lastVal)) ∨
    (positionOf arg ≠ s.lastPos ∧ positionOf arg = s.prevPos ∧ execGet arg s = .next (s.respond s.prevVal)) ∨
    (positionOf arg ≠ s.lastPos ∧ positionOf arg ≠ s.prevPos ∧ execGet arg s =
      .next ((missEffect Config.block (positionOf arg) s).respond (missEffect Config.block (positionOf arg) s).lastVal)) := by
  rcases getEffect_cases Config.block arg s with ⟨h, e⟩ | ⟨h1, h2, e⟩ | ⟨h1, h2, e⟩
  · exact .inl ⟨h, by rw [execGet, e]⟩
  · exact .inr (.inl ⟨h1, h2, by rw [execGet, e]⟩)
  · exact .inr (.inr ⟨h1, h2, by rw [execGet, e]⟩)

/-- R56, R128: everything the host's readiness does at an edge. -/
theorem responseEdge_cases (p : Pins) (s : State.At posW accW outW) :
    (s.rspValid = true ∧ p.rspReady = true ∧ responseEdge p s = s.takeResponse) ∨
    ((s.rspValid = false ∨ p.rspReady = false) ∧ responseEdge p s = s) := by
  cases h1 : s.rspValid <;> cases h2 : p.rspReady <;> simp [responseEdge, h1, h2]

/-- R127: everything an edge in WALK does. -/
theorem walkEdge_cases (k : Params) (s : State.At posW accW outW) :
    (s.lastPos + 1#posW = s.tgt ∧
      walkEdge k s = ((s.walkOnce k).fillLast k).endWalk.respond (quantize k (nx k s.step s.acc))) ∨
    (s.lastPos + 1#posW ≠ s.tgt ∧ walkEdge k s = s.walkOnce k) := by
  by_cases h : s.lastPos + 1#posW = s.tgt
  · exact .inl ⟨h, by simp [walkEdge, h]⟩
  · exact .inr ⟨h, by simp [walkEdge, h]⟩

/-! A run of the host's core, one step at a time. -/

theorem core_run_zero (s : State) : Host.Core.run core 0 s = .next s := rfl

theorem core_run_next (n : Nat) (s t : State) (h : step s = .next t) :
    Host.Core.run core (n + 1) s = Host.Core.run core n t := by
  have h' : core.step s = .next t := h
  have e := Host.Core.run.eq_2 core s n
  rw [h'] at e
  exact e

theorem core_run_refused (n : Nat) (s : State) (r : Refusal) (h : step s = .refused r) :
    Host.Core.run core (n + 1) s = .refused r := by
  have h' : core.step s = .refused r := h
  have e := Host.Core.run.eq_2 core s n
  rw [h'] at e
  exact e

end Sys2Proof.Laws
end

