-- ==== Sys2Proof/Tests/Slice0.lean ====
section
/-! SUPPORT. Tests: the smoke tests of the checks, words written out from the encoding, one-step results taken from
spec/95_test_vectors.md, and for every statement with hypotheses a state and operands that meet them. -/

-- Many small evaluations: one thread does them, so that the file builds where threads are scarce.
set_option Elab.async false

namespace Sys2Proof.Tests

open Sys2Proof.Machine Sys2Proof.Safety
open Config (block)

/-! ## Helpers -/

/-- The state of an outcome that has one. -/
def stateOf : Host.Outcome State Fault Refusal → Option State
  | .next t => some t
  | .fault _ => none
  | .refused _ => none

/-- The word an assembler line gives. -/
def commandsOf : Except AsmError (List Instr) → Option (List Instr)
  | .ok is => some is
  | .error _ => none

/-- The block out of reset, ready for a command. -/
def ready : State := { State.reset with rstQ := false }

/-- A ready block at step s whose cache holds (last, prev). -/
def cached (s : Word) (last prev : Position) : State :=
  { ready with
    step := s, acc := accAfter block s last.toNat
    lastPos := last, lastVal := quantize block (accAfter block s last.toNat)
    prevPos := prev, prevVal := quantize block (accAfter block s prev.toNat) }

/-- A ready block to which command word c is offered. -/
def offered (c : CommandWord) : State := { ready with inputs := [offerPins c] }

/-! ## WellFormed: an ill-formed term for each check -/

theorem test_imm_too_large : AsmLine.wellFormed (.setwave 2147483648) = false := by decide
theorem test_imm_too_small : AsmLine.wellFormed (.get (-2147483649)) = false := by decide
theorem test_getpair_imm : AsmLine.wellFormed (.getpair (-2147483649)) = false := by decide
theorem test_getpair_successor : AsmLine.wellFormed (.getpair 2147483647) = false := by decide
theorem test_imm_bounds : AsmLine.wellFormed (.get 2147483647) && AsmLine.wellFormed (.setwave (-2147483648)) := by decide

/-! ## Decode: words written out bit by bit from R54 and R57 (R62's examples) -/

theorem test_decode_setwave : decode 0b0100000000000000000000000000111011#34 = .ok (.setwave 59#32) := rfl
theorem test_decode_get : decode 0b1000000000000000000000000001111111#34 = .ok (.get 127#32) := rfl
theorem test_decode_reset : decode 0b1100000000000000000000000000000000#34 = .ok .reset := rfl
theorem test_decode_reserved : decode 0b0000000000000000000000000000000101#34 = .error .reservedOpcode := rfl
theorem test_encode_negative : encode (.setwave (toS32 (-5))) = 0x1FFFFFFFB#34 := by decide
theorem test_table_word : decodeTableWord 34 0x200000080 = some (.get 128#32) := by decide
theorem test_table_word_no_row : decodeTableWord 34 0x000000080 = none := by decide

/-! ## Assembler (R60 to R62) -/

theorem test_text_setwave :
    commandsOf (assembleText ['S', 'E', 'T', 'W', 'A', 'V', 'E', ' ', '-', '5', ';', 'x']) =
      some [.setwave 0xFFFFFFFB#32] := by decide +kernel
theorem test_text_getpair :
    commandsOf (assembleText ['G', 'E', 'T', 'P', 'A', 'I', 'R', ' ', '0', 'x', '7', 'F']) =
      some [.get 127#32, .get 128#32] := by decide +kernel
theorem test_text_large_hex :
    commandsOf (assembleText ['G', 'E', 'T', ' ', '0', 'x', '8', '0', '0', '0', '_', '0', '0', '0', '0']) = none := by
  decide +kernel
theorem test_disassemble_negative : disassembleWord 0x2FFFFFFFF#34 = some ['G', 'E', 'T', ' ', '-', '1'] := by
  decide +kernel

/-! ## One step each (95_test_vectors.md 2.1, 2.2, 2.5 to 2.9) -/

/-- 2.2: 1000 clamps to 59. -/
theorem test_setwave_clamps : (stateOf (step (offered 0x1000003E8#34))).map (·.step) = some 0x06120000#32 := by
  decide +kernel
/-- 2.2: -2^31 clamps to 0. -/
theorem test_setwave_negative : (stateOf (step (offered 0x180000000#34))).map (·.step) = some 0x01000000#32 := by
  decide +kernel
/-- P1 line 3, from reset: GET 64 responds 0.0. -/
theorem test_get_forward : (stateOf (step (offered 0x200000040#34))).map (·.rspData) = some 0x00000000#32 := by
  decide +kernel
/-- 2.9 row 8: the backward wrap keeps 127 as the older entry, and walks nothing. -/
theorem test_get_backward :
    (stateOf (exec (.get 128#32) (cached 0x06120000#32 127#7 126#7))).map (fun t => (t.lastPos, t.prevPos, t.rspData)) =
      some (0#7, 127#7, 0xC0000000#32) := by decide +kernel
/-- R72's worked example. -/
theorem test_reset_keeps_step :
    (stateOf (exec .reset (cached 0x01000000#32 100#7 99#7))).map (fun t => (t.step, t.acc, t.prevPos, t.lastVal)) =
      some (0x01000000#32, 0#32, 0#7, 0xC0000000#32) := by decide +kernel
/-- 2.5: the walk step function. -/
theorem test_nx_sync :
    nx block 0x01000000#32 0x7F000000#32 = 0#32 ∧ nx block 0x06120000#32 0x79680000#32 = 0x7F7A0000#32 ∧
    nx block 0x01000000#32 0xFF800000#32 = 0x00800000#32 := by decide
/-- 2.6: the quantizer. -/
theorem test_quantize :
    quantize block 0x3F000000#32 = 0xFF000000#32 ∧ quantize block 0x7FFE0000#32 = 0x3FFE0000#32 := by decide
/-- R5, R6, R32: with another constant in place of one of R6's, the machine is another: `STEP_INC` halved, `OUT_OFFSET`
-32, `RESET_STEP` that of variant 59, and of variant 60, which the restriction to legal steps makes 59. -/
theorem test_other_constants :
    stepSize { stepInc := 720896 } 1 = 0x010B0000#32 ∧ quantize { outOffset := -32 } 0#32 = 0xE0000000#32 ∧
    (State.resetAt { outOffset := -32 } : State).lastVal = 0xE0000000#32 ∧ (State.resetWith 59).step = 0x06120000#32 ∧
    (State.resetWith 60).step = 0x06120000#32 := by
  decide
/-- R5, R6, R32: `TABLE_LEN` 256 (`POS_W` 8), `ACC_W` 40 and `ARG_W` 6: position 200 is reached, a step of 40 bits keeps
its top bits, and the argument's upper bits are not read (how the 7 bits of a position come from 6 is the model's
choice, log entry 9). -/
theorem test_other_widths :
    (getEffect block 200#32 (State.resetAt block : State.At 8 32 32)).lastPos = 200#8 ∧
    (stepSize { stepInc := 2 ^ 33 } 1 : BitVec 40) = 0x201000000#40 ∧
    (positionOf (portArg { argW := 6 } 127#32) : Position) = 63#7 := by
  decide +kernel
/-- 2.8, v = 1 around its sync. -/
theorem test_wave_v1 :
    accAfter block (stepSize block 1) 117 = 0x7F0E0000#32 ∧ accAfter block (stepSize block 1) 118 = 0#32 := by
  decide +kernel
/-- 2.10: GET 1 from reset answers at edge 1, not at edge 0. -/
theorem test_edges_get1 :
    (stateOf (runEdges block [offerPins 0x200000001#34] ready)).map (·.rspValid) = some false ∧
    (stateOf (runEdges block [offerPins 0x200000001#34, quietPins] ready)).map (·.rspData) = some 0xC1000000#32 := by
  decide +kernel

/-! ## Witnesses: states and operands that meet the hypotheses of the statements -/

theorem command_inv_cached (v : Nat) (hv : v < 60) (last prev : Position)
    (h1 : 2 ^ 17 ∣ (accAfter block (stepSize block v : Word) last.toNat).toNat ∧
      (accAfter block (stepSize block v : Word) last.toNat).toNat < 2 ^ 31)
    (h2 : 2 ^ 17 ∣ (quantize block (accAfter block (stepSize block v : Word) last.toNat) : Word).toNat)
    (h3 : 2 ^ 17 ∣ (quantize block (accAfter block (stepSize block v : Word) prev.toNat) : Word).toNat) :
    CommandInv (cached (stepSize block v) last prev) :=
  ⟨⟨h1.2, rfl, rfl, ⟨v, hv, rfl⟩, h1.1, h3⟩, rfl, h2⟩

/-- The invariants at variant 59, after GET 126, GET 127 (ResetResult, CacheHitResponds, ResponseRealValue, ResponseRange,
GetAnswersTheWaveform, ResponseIndependentOfCache, AccumulatorClosedForm, CommandsKeepTheInvariants,
StreamResponsesAreTheClosedForm, WalkSumNeverWraps). -/
theorem witness_command_inv :
    CommandInv (cached (stepSize block 59) 127#7 126#7) ∧ (cached (stepSize block 59) 127#7 126#7).rspValid = false :=
  ⟨command_inv_cached 59 (by decide) _ _ (by decide +kernel) (by decide +kernel) (by decide +kernel), rfl⟩

/-- Two states with one `step` and different caches (ResponseIndependentOfCache). -/
theorem witness_two_caches :
    CommandInv (cached (stepSize block 59) 127#7 126#7) ∧ CommandInv (cached (stepSize block 59) 3#7 6#7) ∧
    (positionOf 5#32 : Position) = positionOf 133#32 :=
  ⟨witness_command_inv.1,
   command_inv_cached 59 (by decide) _ _ (by decide +kernel) (by decide +kernel) (by decide +kernel), by decide⟩

/-- VariantZeroIsExact, and the first clause of WrapToPositionZero at position 0. -/
theorem witness_variant_zero :
    CommandInv (cached (stepSize block 0) 5#7 0#7) ∧ (cached (stepSize block 0) 5#7 0#7).step = 0x01000000#32 ∧
    positionOf 0#32 = 0#7 ∧ (0#32).toInt % 128 = 0 :=
  ⟨command_inv_cached 0 (by decide) _ _ (by decide +kernel) (by decide +kernel) (by decide +kernel), rfl, rfl, rfl⟩

/-- WrapToPositionZero, second clause. -/
theorem witness_wrap : positionOf 128#32 = 0#7 ∧ (cached (stepSize block 59) 127#7 126#7).lastPos = 127#7 ∧
    (cached (stepSize block 59) 127#7 126#7).prevPos = 126#7 := ⟨rfl, rfl, rfl⟩

/-- The two cache entries hold one position (CacheHitResponds, third clause). -/
theorem witness_equal_entries : CommandInv (cached (stepSize block 1) 0#7 0#7) ∧
    (cached (stepSize block 1) 0#7 0#7).lastPos = (cached (stepSize block 1) 0#7 0#7).prevPos :=
  ⟨command_inv_cached 1 (by decide) _ _ (by decide +kernel) (by decide +kernel) (by decide +kernel), rfl⟩

/-- Hits on either entry, a forward miss at its first and last position, a backward miss at 0 and just below
(CacheHitResponds, CacheMissWalksAndFills, WalkLengthByPath, SetwaveResetIsReset, CachedPositionsHitForever). -/
theorem witness_paths : (let s := cached (stepSize block 59) 5#7 3#7
    [positionOf 133#32, positionOf 3#32, positionOf 6#32, positionOf 127#32, positionOf 4#32, positionOf 0#32].map
      (fun p => getPath p s)) =
    [.hitLast, .hitPrev, .missForward, .missForward, .missBackward, .missBackward] := by decide +kernel

/-- RepeatedGetChangesNothing, PositionIsArgumentModulo128: two arguments of one position. -/
theorem witness_same_position : (positionOf 0xFFFFFFFF#32 : Position) = positionOf 127#32 ∧
    (0xFFFFFFFF#32).toInt % 128 = (127#32).toInt % 128 := by decide

/-- LegalStep at both ends (AccumulatorClosedForm, SyncCountsByVariant, WalkSumNeverWraps, InvariantsHoldAtReset), and the
largest accumulator below 2^31 (QuantizerIsExact, WalkSumNeverWraps). -/
theorem witness_legal_steps :
    LegalStep block 0x01000000#32 ∧ LegalStep block 0x06120000#32 ∧ (0x7FFFFFFF#32).toNat < 2 ^ 31 :=
  ⟨⟨0, by decide, rfl⟩, ⟨59, by decide, rfl⟩, by decide⟩

/-- VariantIsClamped: the values where its clauses meet. -/
theorem witness_clamp :
    clampVariant block (-1) = 0 ∧ clampVariant block 0 = 0 ∧ clampVariant block 59 = 59 ∧ clampVariant block 60 = 59 := by
  decide

/-- An edge with `rst = 1` in the middle of a walk, then one without (HardwareResetEdge, ReadyOneCycleAfterReset,
ResetVersusHardwareReset). -/
theorem witness_reset_pins : resetPins.rst = true ∧ takePins.rst = false ∧
    (nextPins { ready with fsm := .walk, inputs := [resetPins] }).rst = true := ⟨rfl, rfl, rfl⟩

/-- An accepted command of each kind, and an accepted reserved word (StepRunsTheDecodedCommand, ReservedOpcodeIsRefused,
SetwaveAndResetTakeOneEdge, EdgesRefineCommandStreams). -/
theorem witness_accepted :
    [0x10000003B#34, 0x200000040#34, 0x300000000#34, 0x000000000#34].map
      (fun c => accepts (nextPins (offered c)) (offered c)) = [true, true, true, true] ∧
    decode (nextPins (offered 0x10000003B#34)).word = .ok (.setwave 59#32) ∧
    decode (nextPins (offered 0x300000000#34)).word = .ok .reset ∧
    (nextPins (offered 0x000000000#34)).cmdOp = 0#2 ∧ cmdReady ready = true :=
  ⟨by decide, rfl, rfl, rfl, rfl⟩

/-- OfferedTableWordRunsNext: a word of each row, at the table's 34 bits and at whole bytes. -/
theorem witness_table_words : decodeTableWord 34 0x10000003B = some (.setwave 59#32) ∧
    decodeTableWord 40 0x20000007F = some (.get 127#32) ∧ decodeTableWord 40 0x300000000 = some .reset := by decide

/-- UnacceptedOfferIsIgnored: two different offers to a block that is not ready. -/
theorem witness_not_accepted :
    accepts (offerPins 0x10000003B#34) State.reset = false ∧ accepts (offerPins 0x200000001#34) State.reset = false :=
  ⟨rfl, rfl⟩

/-- IdleBlockHoldsItsState. -/
theorem witness_idle : ready.inputs = [] ∧ ready.fsm = .idle ∧ ready.rstQ = false := ⟨rfl, rfl, rfl⟩

/-- ResponseEdgeTakesTheResponse, both clauses. -/
theorem witness_response : (ready.respond 0#32).rspValid = true ∧ (ready.respond 0#32).fsm = .idle ∧
    takePins.rspReady = true ∧ takePins.rst = false ∧ quietPins.rspReady = false := ⟨rfl, rfl, rfl, rfl, rfl⟩

/-- DecodeAndEncodeAgree, DisassembledTextAssemblesBack: a RESET word with argument bits, and op 00's largest word. -/
theorem witness_decoded : decode 0x3FFFFFFFF#34 = .ok .reset ∧ decode 0x180000000#34 = .ok (.setwave 0x80000000#32) ∧
    decode 0x0FFFFFFFF#34 = .error .reservedOpcode := ⟨rfl, rfl, rfl⟩

/-- AssemblerLineWord, PseudoInstructionsExpand: immediates at both ends of the range and just outside. -/
theorem witness_immediates : immInRange (-2 ^ 31) = true ∧ immInRange (2 ^ 31 - 1) = true ∧
    immInRange (-2 ^ 31 - 1) = false ∧ immInRange (2 ^ 31) = false := by decide

/-- OnlySetwaveAndHardwareResetWriteStep: a step that changes `step`. -/
theorem witness_step_written : (stateOf (step (offered 0x10000003B#34))).map (·.step) = some 0x06120000#32 ∧
    (offered 0x10000003B#34).step = 0x01000000#32 ∧ LegalStep block (offered 0x10000003B#34).step :=
  ⟨by decide +kernel, rfl, 0, by decide, rfl⟩

theorem block_inv_offered (c : CommandWord) : BlockInv (offered c) :=
  .inl ⟨rfl, ⟨⟨(by decide : (0#32).toNat < 2 ^ 31), rfl, rfl, ⟨0, by decide, rfl⟩, (by decide : 2 ^ 17 ∣ (0#32).toNat),
    (by decide : 2 ^ 17 ∣ (0xC0000000#32).toNat)⟩, rfl, (by decide : 2 ^ 17 ∣ (0xC0000000#32).toNat)⟩,
    by simp [offered, ready, State.reset]⟩

/-- StepKeepsBlockInvariant, ClockEdgeKeepsBlockInvariant: a state with the invariant, a step and an edge from it. -/
theorem witness_block_inv : BlockInv (offered 0x200000040#34) ∧ (stateOf (step (offered 0x200000040#34))).isSome = true ∧
    (stateOf (clockEdge block (offerPins 0x200000040#34) (offered 0x200000040#34))).isSome = true :=
  ⟨block_inv_offered _, by decide +kernel, by decide +kernel⟩

/-- The walking half of the invariant: the edge after GET 2's acceptance (StepKeepsBlockInvariant,
ClockEdgeKeepsBlockInvariant, OnlyTheWalkAdvancesLastPos). -/
theorem witness_walking : BlockInv (ready.startWalk 2#7) ∧
    (stateOf (clockEdge block quietPins (ready.startWalk 2#7))).map (·.lastPos) = some 1#7 :=
  ⟨.inr ⟨rfl, ⟨by decide, rfl, rfl, ⟨0, by decide, rfl⟩, by decide, by decide⟩, by decide, rfl⟩, by decide +kernel⟩

/-- GetScheduleMatchesTransaction (k = 2, two edges), BusyUntilTheWalkEnds (one edge of two). -/
theorem witness_schedule : accepts (offerPins 0x200000002#34) ready = true ∧
    decode (offerPins 0x200000002#34).word = .ok (.get 2#32) ∧
    [quietPins, takePins].length = walkLength (positionOf (portArg block 2#32)) ready ∧
    [quietPins].length < walkLength (positionOf (portArg block 2#32)) ready ∧ (∀ q ∈ [quietPins, takePins], q.rst = false) := by
  refine ⟨rfl, rfl, by decide, by decide, by decide⟩

/-- StepsRunTheCommandStream: a stream of all three commands lined up on the ports. -/
theorem witness_stream : (let is := [Instr.setwave 59#32, .get 3#32, .reset]
    cmdReady { ready with inputs := portSamples is } = true ∧
    ({ ready with inputs := portSamples is } : State).inputs = portSamples is) := ⟨rfl, rfl⟩

/-- CachedPositionsHitForever: alternating queries of the two entries. -/
theorem witness_alternating : (cached (stepSize block 59) 6#7 5#7).rspValid = false ∧
    ∀ a ∈ [5#32, 6#32, 133#32], positionOf a = (cached (stepSize block 59) 6#7 5#7).lastPos ∨
      positionOf a = (cached (stepSize block 59) 6#7 5#7).prevPos := by
  refine ⟨rfl, fun a ha => ?_⟩
  rcases List.mem_cons.mp ha with rfl | ha
  · exact .inr rfl
  rcases List.mem_cons.mp ha with rfl | ha
  · exact .inl rfl
  · rw [List.mem_singleton.mp ha]; exact .inr rfl

end Sys2Proof.Tests
end

section
/-! Commands at a step and at the command port: what the step of a ready block decodes and runs (spec/00_scope.md R14,
30_encoding.md R53, R54), and the constants of R6. -/

namespace Sys2Proof.Proofs

open Sys2Proof.Machine Sys2Proof.Laws
open Config (block)

/-- R54, R57: the decoder reads back every encoded command. -/
@[simp] theorem decode_encode (i : Instr) : decode (encode i) = .ok i := by
  cases i <;> simp [decode, encode, opcodeOf, argOf]

/-- R14, R53: the step of an accepted command is its `exec`. -/
theorem step_of_accepts {s : State} {i : Instr} (ha : accepts (nextPins s) s = true)
    (hd : decode (nextPins s).word = .ok i) : step s = exec i s.popInputs := by
  have hp : accepts (nextPins s) s.popInputs = true := by rw [accepts_popInputs, ha]
  simp [step, stepOn, runAccepted, hp, hd]

/-- R53: what `offerNext` puts on the ports is the offered word. -/
@[simp] theorem nextPins_offerNext (c : CommandWord) (s : State) : nextPins (s.offerNext c) = offerPins c := rfl

/-- R52, R53: the block accepts what `offerNext` puts on the ports. -/
theorem accepts_offerNext (c : CommandWord) (s : State) : accepts (offerPins c) (s.offerNext c) = true :=
  (accepts_iff _ _).mpr ⟨rfl, rfl, (cmdReady_iff _).mpr ⟨rfl, rfl, rfl⟩⟩

/-- R58: an opcode-table word is an instruction exactly when the word on the port decodes to it. -/
theorem decodeTableWord_eq_some_iff (nbits w : Nat) (i : Instr) :
    decodeTableWord nbits w = some i ↔ decode (tableCommandWord nbits w) = .ok i := by
  rw [decodeTableWord]
  cases decode (tableCommandWord nbits w) <;> simp

/-- U5: `RESET_STEP` is the step size of the variant it names, clamped to `VAR_MAX`. -/
theorem legalStep_resetStep (accW : Nat) (k : Config.Params) : LegalStep k (BitVec.ofNat accW k.resetStep) :=
  ⟨min k.resetVariant k.varMax, Nat.lt_succ_of_le (Nat.min_le_right _ _), rfl⟩

/-- Settles O4. -/
theorem stepRunsTheDecodedCommand : Obligations.StepRunsTheDecodedCommand :=
  fun _ _ ha hd => step_of_accepts ha hd

/-- Settles O5: the offered word is accepted, and consuming its sample undoes the offer. -/
theorem offeredTableWordRunsNext : Obligations.OfferedTableWordRunsNext := by
  intro s nbits w i h
  have hd : decode (nextPins (s.withFetchWord nbits w)).word = .ok i := by
    rw [State.withFetchWord, nextPins_offerNext, word_offerPins]
    exact (decodeTableWord_eq_some_iff nbits w i).mp h
  exact step_of_accepts (accepts_offerNext _ s) hd

/-- Settles O52. -/
theorem stepAtTheConstantsOfR6 : Obligations.StepAtTheConstantsOfR6 :=
  ⟨rfl, rfl, rfl, step_eq_stepAt, exec_eq_execAt, rfl, rfl, legalStep_resetStep⟩

end Sys2Proof.Proofs
end

section
/-! The reference schedule of one GET, edge by edge, for all constants and widths (spec/70_reset_and_hazards.md R124 to
R129): the accepting edge, the walk and the response edge. -/

namespace Sys2Proof.Proofs

open Sys2Proof.Machine Sys2Proof.Laws
open Config (Params)

variable {argW posW accW outW : Nat}

/-! ### Edges -/

/-- R52: out of reset, an edge's sample of `rst` changes nothing. -/
theorem sampleRst_of_rstQ {s : State.At posW accW outW} (h : s.rstQ = false) : s.sampleRst false = s := by
  simp only [State.At.sampleRst, ← h]

/-- R53, R125, R126: an edge that accepts a decodable word is the accepting edge of its command. -/
theorem clockEdge_of_accepts (k : Params) {p : Pins} {s : State.At posW accW outW} {i : Instr}
    (ha : accepts p s = true) (hd : decode p.word = .ok i) : clockEdge k p s = acceptEdge k i s := by
  obtain ⟨hrst, -, hready⟩ := (accepts_iff p s).mp ha
  simp [clockEdge, runAccepted, hrst, ha, hd, sampleRst_of_ready s hready]

/-- R127, R128: an edge out of reset that accepts nothing. -/
theorem clockEdge_of_not_accepts (k : Params) {p : Pins} {s : State.At posW accW outW} (hr : p.rst = false)
    (ha : accepts p s = false) (hq : s.rstQ = false) : clockEdge k p s = .next (plainEdge k p s) := by
  simp [clockEdge, hr, ha, sampleRst_of_rstQ hq]

/-- R53: a block that is not ready accepts nothing. -/
theorem accepts_of_not_ready (p : Pins) {s : State.At posW accW outW} (h : cmdReady s = false) :
    accepts p s = false := by
  simp [accepts, h]

/-! ### The walk -/

/-- R124, R127: a GET is walking, no response waits, and the block is out of reset. -/
structure Walking (s : State.At posW accW outW) : Prop where
  fsm_walk : s.fsm = .walk
  no_response : s.rspValid = false
  out_of_reset : s.rstQ = false

/-- R52, R124: a walking block is not ready. -/
theorem Walking.not_ready {s : State.At posW accW outW} (h : Walking s) : cmdReady s = false := by
  simp [cmdReady, h.fsm_walk]

/-- R127: without a reset, an edge of a walking block is its walk edge, whatever the host drives. -/
theorem Walking.clockEdge {s : State.At posW accW outW} (h : Walking s) (k : Params) {p : Pins} (hr : p.rst = false) :
    Machine.clockEdge k p s = .next (walkEdge k s) := by
  rw [clockEdge_of_not_accepts k hr (accepts_of_not_ready p h.not_ready) h.out_of_reset]
  simp [plainEdge, responseEdge, h.fsm_walk, h.no_response]

/-- R127: the walk steps before the target is reached leave the block walking. -/
theorem Walking.walkOnce_iterate {s : State.At posW accW outW} (h : Walking s) (k : Params) (n : Nat) :
    Walking ((State.At.walkOnce k)^[n] s) := by
  rw [Laws.walkOnce_iterate]
  exact ⟨h.fsm_walk, h.no_response, h.out_of_reset⟩

/-- R127: the edges of a walk before its last one are walk steps. -/
theorem walkEdge_iterate_of_lt (k : Params) (n : Nat) (s : State.At posW accW outW)
    (hn : s.lastPos.toNat + n < s.tgt.toNat) : (walkEdge k)^[n] s = (State.At.walkOnce k)^[n] s := by
  induction n generalizing s with
  | zero => rfl
  | succ n ih =>
    have hpos : (s.lastPos + 1#posW).toNat = s.lastPos.toNat + 1 := toNat_add_one _ s.tgt (by omega)
    have hstep : walkEdge k s = s.walkOnce k := by
      rcases walkEdge_cases k s with ⟨htgt, _⟩ | ⟨_, e⟩
      · rw [htgt] at hpos
        omega
      · exact e
    rw [Function.iterate_succ_apply, Function.iterate_succ_apply, hstep]
    exact ih (s.walkOnce k) (by rw [State.At.walkOnce_lastPos, State.At.walkOnce_tgt, hpos]; omega)

/-- R94, R126, R127: the edges of a whole walk, the last of which fills the cache, answers and forgets the target. -/
theorem walkEdge_iterate_to_target (k : Params) (n : Nat) (s : State.At posW accW outW)
    (hn : s.lastPos.toNat + (n + 1) = s.tgt.toNat) :
    (walkEdge k)^[n + 1] s = (((s.walkTo k s.tgt).fillLast k).endWalk).respond (quantize k (s.walkTo k s.tgt).acc) := by
  have hle : s.lastPos ≤ s.tgt := by rw [BitVec.le_def]; omega
  have hlen : s.tgt.toNat - s.lastPos.toNat = n + 1 := by omega
  have hwalk : s.walkTo k s.tgt = ((State.At.walkOnce k)^[n] s).walkOnce k := by
    rw [State.At.walkTo, walkLoop_eq k _ _ s hle (by have := s.tgt.isLt; simp only [Config.tableLen]; omega), hlen,
      Function.iterate_succ_apply']
  have htgt : (((State.At.walkOnce k)^[n] s).walkOnce k).lastPos = ((State.At.walkOnce k)^[n] s).tgt := by
    rw [← hwalk, walkTo_eq k _ s hle, Laws.walkOnce_iterate]
  rw [Function.iterate_succ_apply', walkEdge_iterate_of_lt k n s (by omega), walkEdge, if_pos htgt, hwalk]

/-! ### GET -/

/-- R97: no GET walks further than its position. -/
theorem walkLength_le (p : BitVec posW) (s : State.At posW accW outW) : walkLength p s ≤ p.toNat := by
  rw [walkLength]
  split <;> omega

/-- R83, R97: only a miss walks. -/
theorem miss_of_walkLength_ne_zero {p : BitVec posW} {s : State.At posW accW outW} (h : walkLength p s ≠ 0) :
    p ≠ s.lastPos ∧ p ≠ s.prevPos := by
  refine ⟨fun e => h ?_, fun e => h ?_⟩
  · simp [walkLength, getPath, e]
  · by_cases hl : p = s.lastPos
    · simp [walkLength, getPath, hl]
    · simp [walkLength, getPath, ← e, hl]

/-- R97: where there is something to walk, the walk length leads from the walk's start to its target. -/
theorem startMiss_add_walkLength (k : Params) {p : BitVec posW} {s : State.At posW accW outW}
    (h : walkLength p s ≠ 0) : (s.startMiss k p).lastPos.toNat + walkLength p s = p.toNat := by
  obtain ⟨h1, h2⟩ := miss_of_walkLength_ne_zero h
  have hdist := walkLength_miss k p s h1 h2
  omega

/-- R126: a GET with nothing to walk is performed whole at its accepting edge. -/
theorem acceptGet_of_walkLength_zero (k : Params) (arg : BitVec argW) (s : State.At posW accW outW)
    (h0 : walkLength (positionOf arg) s = 0) : acceptGet k arg s = getEffect k arg s := by
  by_cases h1 : positionOf arg = s.lastPos
  · simp [acceptGet, getEffect, h1]
  by_cases h2 : positionOf arg = s.prevPos
  · simp only [acceptGet, getEffect, if_neg h1, if_pos h2]
  have hdist : (positionOf arg).toNat - (s.startMiss k (positionOf arg)).lastPos.toNat = 0 :=
    (walkLength_miss k _ s h1 h2).symm.trans h0
  have hstay : (s.startMiss k (positionOf arg)).walkTo k (positionOf arg) = s.startMiss k (positionOf arg) := by
    rw [State.At.walkTo, walkLoop_eq k _ _ _ (startMiss_le k _ s) (by omega), hdist]
    rfl
  have hmiss : missEffect k (positionOf arg) s = (s.startMiss k (positionOf arg)).fillLast k := by
    rw [missEffect, if_pos h0, missRegisters, hstay]
  simp only [acceptGet, getEffect, if_neg h1, if_neg h2, if_pos h0, hmiss, State.At.fillLast_lastVal]

/-- R126: a GET with something to walk sets its target and starts the walk at its accepting edge. -/
theorem acceptGet_of_walkLength_ne_zero (k : Params) (arg : BitVec argW) (s : State.At posW accW outW)
    (h0 : walkLength (positionOf arg) s ≠ 0) :
    acceptGet k arg s = (s.startMiss k (positionOf arg)).startWalk (positionOf arg) := by
  obtain ⟨h1, h2⟩ := miss_of_walkLength_ne_zero h0
  simp only [acceptGet, if_neg h1, if_neg h2, if_neg h0]

/-- R126: a ready block that starts a walk is walking. -/
theorem walking_startWalk (k : Params) (p : BitVec posW) {s : State.At posW accW outW} (hs : cmdReady s = true) :
    Walking ((s.startMiss k p).startWalk p) := by
  obtain ⟨-, hrsp, hrst⟩ := (cmdReady_iff s).mp hs
  rcases startMiss_cases k p s with ⟨_, e⟩ | ⟨_, e⟩ <;> rw [e] <;> exact ⟨rfl, hrsp, hrst⟩

/-- R124, R129: a GET of walk length n walks until its edge n. -/
theorem walking_during_get (k : Params) (arg : BitVec argW) {s : State.At posW accW outW} (hs : cmdReady s = true)
    {j : Nat} (hj : j < walkLength (positionOf arg) s) : Walking ((walkEdge k)^[j] (acceptGet k arg s)) := by
  have h0 : walkLength (positionOf arg) s ≠ 0 := by omega
  have hdist := startMiss_add_walkLength k h0
  rw [acceptGet_of_walkLength_ne_zero k arg s h0, walkEdge_iterate_of_lt]
  · exact (walking_startWalk k _ hs).walkOnce_iterate k j
  · rw [State.At.startWalk_lastPos, State.At.startWalk_tgt]
    omega

/-- R27, R87: a miss leaves the control state alone. -/
theorem startMiss_fsm (k : Params) (p : BitVec posW) (s : State.At posW accW outW) : (s.startMiss k p).fsm = s.fsm := by
  rcases startMiss_cases k p s with ⟨_, e⟩ | ⟨_, e⟩ <;> rw [e] <;> rfl

/-- R27, R126, R127: a walk started and ended at the port leaves what the walk loop of the transaction leaves. -/
theorem endWalk_startWalk (k : Params) (p : BitVec posW) {s : State.At posW accW outW} (hfsm : s.fsm = .idle)
    (hle : s.lastPos ≤ p) :
    (((s.startWalk p).walkTo k p).fillLast k).endWalk = ((s.walkTo k p).fillLast k).forgetTarget := by
  rw [walkTo_eq k p s hle, walkTo_eq k p (s.startWalk p) hle]
  simp [State.At.endWalk, State.At.forgetTarget, State.At.fillLast, State.At.startWalk, hfsm]

/-- R87: the walk's accumulator does not depend on the hidden walk state. -/
theorem walkTo_startWalk_acc (k : Params) (p : BitVec posW) {s : State.At posW accW outW} (hle : s.lastPos ≤ p) :
    ((s.startWalk p).walkTo k p).acc = (s.walkTo k p).acc := by
  rw [walkTo_eq k p s hle, walkTo_eq k p (s.startWalk p) hle]
  rfl

/-- R80: the effect of a GET that walks. -/
theorem getEffect_of_walkLength_ne_zero (k : Params) (arg : BitVec argW) (s : State.At posW accW outW)
    (h0 : walkLength (positionOf arg) s ≠ 0) :
    getEffect k arg s = (missRegisters k (positionOf arg) s).forgetTarget.respond
      (missRegisters k (positionOf arg) s).lastVal := by
  obtain ⟨h1, h2⟩ := miss_of_walkLength_ne_zero h0
  simp only [getEffect, missEffect, if_neg h1, if_neg h2, if_neg h0, State.At.forgetTarget_lastVal]

/-- R14, R126, R127: after the accepting edge, the walk edges of a GET bring it to the state of its transaction. -/
theorem walkEdge_iterate_acceptGet (k : Params) (arg : BitVec argW) {s : State.At posW accW outW}
    (hs : cmdReady s = true) :
    (walkEdge k)^[walkLength (positionOf arg) s] (acceptGet k arg s) = getEffect k arg s := by
  by_cases h0 : walkLength (positionOf arg) s = 0
  · rw [h0, Function.iterate_zero, id, acceptGet_of_walkLength_zero k arg s h0]
  obtain ⟨hidle, -, -⟩ := (cmdReady_iff s).mp hs
  obtain ⟨n, hn⟩ := Nat.exists_eq_succ_of_ne_zero h0
  have hdist := startMiss_add_walkLength k h0
  rw [acceptGet_of_walkLength_ne_zero k arg s h0, hn, walkEdge_iterate_to_target]
  · have hle := startMiss_le k (positionOf arg) s
    rw [State.At.startWalk_tgt, endWalk_startWalk k _ ((startMiss_fsm k _ s).trans hidle) hle,
      walkTo_startWalk_acc k _ hle, getEffect_of_walkLength_ne_zero k arg s h0, missRegisters, State.At.fillLast_lastVal]
  · rw [State.At.startWalk_lastPos, State.At.startWalk_tgt]
    omega

/-! ### What a command leaves at the ports -/

/-- R56, R80: every GET answers. -/
theorem getEffect_rspValid (k : Params) (arg : BitVec argW) (s : State.At posW accW outW) :
    (getEffect k arg s).rspValid = true := by
  rcases getEffect_cases k arg s with ⟨_, e⟩ | ⟨_, _, e⟩ | ⟨_, _, e⟩ <;> rw [e, State.At.respond_rspValid]

/-- R27: a GET's transaction keeps the control state. -/
theorem getEffect_fsm (k : Params) (arg : BitVec argW) (s : State.At posW accW outW) :
    (getEffect k arg s).fsm = s.fsm := by
  rcases getEffect_cases k arg s with ⟨_, e⟩ | ⟨_, _, e⟩ | ⟨_, _, e⟩ <;> simp [e, missEffect_eq]

/-- R52: a GET's transaction keeps `rst_q`. -/
theorem getEffect_rstQ (k : Params) (arg : BitVec argW) (s : State.At posW accW outW) :
    (getEffect k arg s).rstQ = s.rstQ := by
  rcases getEffect_cases k arg s with ⟨_, e⟩ | ⟨_, _, e⟩ | ⟨_, _, e⟩ <;> simp [e, missEffect_eq]

/-- R128: an edge at which the host takes the response of an idle block does nothing else. -/
theorem clockEdge_takes_response (k : Params) {p : Pins} {s : State.At posW accW outW} (hr : p.rst = false)
    (hready : p.rspReady = true) (hv : s.rspValid = true) (hidle : s.fsm = .idle) (hq : s.rstQ = false) :
    clockEdge k p s = .next s.takeResponse := by
  have hn : cmdReady s = false := by simp [cmdReady, hv]
  rw [clockEdge_of_not_accepts k hr (accepts_of_not_ready p hn) hq]
  simp [plainEdge, responseEdge, hidle, hready, hv]

end Sys2Proof.Proofs
end

section
/-! A command stream offered by a patient host runs its transactions edge by edge, for all constants and widths
(spec/00_scope.md R14, 20_memory.md R45, 70_reset_and_hazards.md R121, R129). -/

namespace Sys2Proof.Proofs

open Sys2Proof.Machine Sys2Proof.Laws
open Config (Params)

variable {posW accW outW : Nat}

/-- R121: the patient host never drives reset. -/
@[simp] theorem patientPins_rst (todo : List Instr) : (patientPins todo).rst = false := by cases todo <;> rfl

/-- R121: the patient host is always ready to take a response. -/
@[simp] theorem patientPins_rspReady (todo : List Instr) : (patientPins todo).rspReady = true := by cases todo <;> rfl

/-- R54: the patient host offers the word of its next command. -/
@[simp] theorem decode_patientPins_cons (i : Instr) (is : List Instr) : decode (patientPins (i :: is)).word = .ok i := by
  have hw : (patientPins (i :: is)).word = (offerPins (encode i)).word := rfl
  rw [hw, word_offerPins, decode_encode]

/-- R53: a ready block accepts the patient host's next command. -/
theorem accepts_patientPins_cons {s : State.At posW accW outW} (hs : cmdReady s = true) (i : Instr) (is : List Instr) :
    accepts (patientPins (i :: is)) s = true :=
  (accepts_iff _ s).mpr ⟨rfl, rfl, hs⟩

/-- R53: the edge at which a ready block accepts the patient host's next command. -/
theorem patientRun_accept (k : Params) (n : Nat) {i : Instr} (is : List Instr) {s t : State.At posW accW outW}
    (hs : cmdReady s = true) (ht : acceptEdge k i s = .next t) :
    patientRun k (n + 1) (i :: is) s = patientRun k n is t := by
  have ha := accepts_patientPins_cons hs i is
  simp [patientRun, clockEdge_of_accepts k ha (decode_patientPins_cons i is), ht, ha]

/-- R53: an edge of a block that is not ready leaves the patient host with the commands it has. -/
theorem patientRun_busy (k : Params) (n : Nat) (todo : List Instr) {s t : State.At posW accW outW}
    (hs : cmdReady s = false) (ht : clockEdge k (patientPins todo) s = .next t) :
    patientRun k (n + 1) todo s = patientRun k n todo t := by
  simp [patientRun, ht, accepts_of_not_ready _ hs]

/-- R127: the edges of a block that keeps walking, under the patient host. -/
theorem patientRun_walk (k : Params) (m n : Nat) (todo : List Instr) (s : State.At posW accW outW)
    (hw : ∀ j, j < n → Walking ((walkEdge k)^[j] s)) :
    patientRun k (m + n) todo s = patientRun k m todo ((walkEdge k)^[n] s) := by
  induction n generalizing s with
  | zero => rfl
  | succ n ih =>
    have h : Walking s := hw 0 (Nat.succ_pos n)
    rw [← Nat.add_assoc, patientRun_busy k (m + n) todo h.not_ready (h.clockEdge k (patientPins_rst todo)),
      Function.iterate_succ_apply]
    exact ih (walkEdge k s) fun j hj => by
      rw [← Function.iterate_succ_apply]
      exact hw (j + 1) (Nat.succ_lt_succ hj)

/-- R128: the patient host takes a GET's response at the edge after it appears. -/
theorem patientRun_response (k : Params) (n : Nat) (todo : List Instr) {s : State.At posW accW outW}
    (hv : s.rspValid = true) (hidle : s.fsm = .idle) (hq : s.rstQ = false) :
    patientRun k (n + 1) todo s = patientRun k n todo s.takeResponse :=
  patientRun_busy k n todo (by simp [cmdReady, hv])
    (clockEdge_takes_response k (patientPins_rst todo) (patientPins_rspReady todo) hv hidle hq)

/-- R45: under the patient host, command i takes block s to the ready block t within `TABLE_LEN` + 1 edges, and t is what
i's transaction leaves. -/
def RunsAsTransaction (k : Params) (i : Instr) (s t : State.At posW accW outW) : Prop :=
  transact k i s = .next t ∧ cmdReady t = true ∧
    ∃ n, n ≤ Config.tableLen posW + 1 ∧ ∀ m is, patientRun k (m + n) (i :: is) s = patientRun k m is t

/-- R125, R129: a command that the accepting edge performs whole, leaving the block ready, takes that one edge. -/
theorem runsAsTransaction_of_one_edge {k : Params} {i : Instr} {s t : State.At posW accW outW} (hs : cmdReady s = true)
    (hexec : execAt k i s = .next t) (hedge : acceptEdge k i s = .next t) (ht : cmdReady t = true) :
    RunsAsTransaction k i s t := by
  obtain ⟨-, hrsp, -⟩ := (cmdReady_iff t).mp ht
  refine ⟨?_, ht, 1, Nat.le_add_left _ _, fun m is => patientRun_accept k m is hs hedge⟩
  simp [transact, hexec, State.At.settleResponse, hrsp]

/-- R126 to R129: a GET takes its accepting edge, its walk and the response edge. -/
theorem runsAsTransaction_get (k : Params) (arg : Word) {s : State.At posW accW outW} (hs : cmdReady s = true) :
    RunsAsTransaction k (.get arg) s (getEffect k (portArg k arg) s).takeResponse := by
  obtain ⟨hidle, -, hrst⟩ := (cmdReady_iff s).mp hs
  have hv := getEffect_rspValid k (portArg k arg) s
  have hidle' := (getEffect_fsm k (portArg k arg) s).trans hidle
  have hrst' := (getEffect_rstQ k (portArg k arg) s).trans hrst
  refine ⟨by simp [transact, execAt, State.At.settleResponse, hv], ?_,
    walkLength (positionOf (portArg k arg)) s + 2, ?_, fun m is => ?_⟩
  · exact (cmdReady_iff _).mpr ⟨hidle', rfl, hrst'⟩
  · have hlen := walkLength_le (positionOf (portArg k arg)) s
    have hpos := (positionOf (portArg k arg) : BitVec posW).isLt
    simp only [Config.tableLen]
    omega
  · have hedges : m + (walkLength (positionOf (portArg k arg)) s + 2) =
        m + 1 + walkLength (positionOf (portArg k arg)) s + 1 := by omega
    rw [hedges, patientRun_accept k _ is hs (t := acceptGet k (portArg k arg) s) rfl,
      patientRun_walk k (m + 1) _ is _ (fun j hj => walking_during_get k (portArg k arg) hs hj),
      walkEdge_iterate_acceptGet k (portArg k arg) hs, patientRun_response k m is hv hidle' hrst']

/-- R14, R129: every command runs as its transaction from a ready block. -/
theorem runsAsTransaction_of_ready (k : Params) (i : Instr) {s : State.At posW accW outW} (hs : cmdReady s = true) :
    ∃ t, RunsAsTransaction k i s t := by
  cases i with
  | setwave arg => exact ⟨_, runsAsTransaction_of_one_edge hs rfl rfl hs⟩
  | get arg => exact ⟨_, runsAsTransaction_get k arg hs⟩
  | reset => exact ⟨_, runsAsTransaction_of_one_edge hs rfl rfl hs⟩

/-- Settles O49, by induction on the command stream. -/
theorem edgesRefineCommandStreams : Obligations.EdgesRefineCommandStreams := by
  intro posW accW outW k is
  induction is with
  | nil => exact fun s hs => ⟨0, s, Nat.zero_le _, rfl, hs, rfl⟩
  | cons i is ih =>
    intro s hs
    obtain ⟨u, htransact, hu, n, hn, hrun⟩ := runsAsTransaction_of_ready k i hs
    obtain ⟨m, t, hm, hcommands, ht, hrest⟩ := ih u hu
    refine ⟨m + n, t, ?_, by simp [runCommands, htransact, hcommands], ht, (hrun m is).trans hrest⟩
    calc m + n ≤ (Config.tableLen posW + 1) * is.length + (Config.tableLen posW + 1) := Nat.add_le_add hm hn
      _ = (Config.tableLen posW + 1) * (i :: is).length := rfl

end Sys2Proof.Proofs
end

section
/-! The waveform on numbers, for this hardware's legal steps (spec/10_state.md R25, R28, 40_variant_selection.md R71, R73,
41_position_query.md R86, R89, R92). -/

namespace Sys2Proof.Proofs

open Sys2Proof.Machine Sys2Proof.Laws
open Config (block Params)

/-- R73: the step size of a variant, on numbers. -/
theorem stepSize_toNat {v : Nat} (hv : v ≤ 59) : (stepSize block v : Word).toNat = 16777216 + 1441792 * v := by
  rw [stepSize, BitVec.toNat_ofNat]
  exact Nat.mod_eq_of_lt (by simp only; omega)

/-- R21, R73: what the proofs use of a legal step. -/
theorem legalStep_bounds {s : Word} (hs : LegalStep block s) : 0 < s.toNat ∧ s.toNat < 2 ^ 27 ∧ 2 ^ 17 ∣ s.toNat := by
  obtain ⟨v, hv, rfl⟩ := hs
  have hv' : v ≤ 59 := Nat.le_of_lt_succ hv
  rw [stepSize_toNat hv']
  omega

/-- R71: a clamped variant is none above `VAR_MAX`. -/
theorem variantOf_le {argW : Nat} (k : Params) (arg : BitVec argW) : variantOf k arg ≤ k.varMax := by
  simp only [variantOf, clampVariant, clamp]
  omega

/-- R21, R71: SETWAVE's step is legal. -/
theorem legalStep_stepSize_variantOf {argW accW : Nat} (k : Params) (arg : BitVec argW) :
    LegalStep k (stepSize k (variantOf k arg) : BitVec accW) :=
  ⟨_, Nat.lt_succ_of_le (variantOf_le k arg), rfl⟩

/-- R25: the variant is read back from its step size. -/
theorem variantOfStep_stepSize {v : Nat} (hv : v ≤ 59) : variantOfStep block (stepSize block v : Word) = v := by
  rw [variantOfStep, stepSize_toNat hv]
  simp only
  omega

/-- R86: the sync event is the top bit of the sum. -/
theorem syncEvent_iff (s a : Word) : syncEvent block s a = true ↔ 2 ^ 31 ≤ (a + s).toNat := by
  have hmsb : syncEvent block s a = (a + s).msb := (BitVec.msb_eq_getLsbD_last (a + s)).symm
  rw [hmsb, BitVec.msb_eq_decide, decide_eq_true_iff]

/-- R86, R88: from an accumulator below 2^31, a legal step's sum does not wrap. -/
theorem nx_toNat {s a : Word} (hs : LegalStep block s) (ha : a.toNat < 2 ^ 31) :
    (nx block s a).toNat = if 2 ^ 31 ≤ a.toNat + s.toNat then 0 else a.toNat + s.toNat := by
  obtain ⟨-, hlt, -⟩ := legalStep_bounds hs
  have hsum : (a + s).toNat = a.toNat + s.toNat := BitVec.toNat_add_of_lt (by omega)
  by_cases h : 2 ^ 31 ≤ a.toNat + s.toNat
  · have hsync : syncEvent block s a = true := (syncEvent_iff s a).mpr (hsum ▸ h)
    rw [nx, if_pos hsync, if_pos h]
    rfl
  · have hsync : ¬ syncEvent block s a = true := fun e => h (hsum ▸ (syncEvent_iff s a).mp e)
    rw [nx, if_neg hsync, if_neg h, hsum]

/-- R89: the period is the first n at which `n * s` reaches 2^31. -/
theorem lt_period_iff {s : Word} (hs : 0 < s.toNat) (n : Nat) : n < period block s ↔ n * s.toNat < 2 ^ 31 := by
  rw [period, ← Nat.succ_le_iff, Nat.le_div_iff_mul_le hs, Nat.succ_mul]
  simp only
  omega

/-- R89: a period has at least one position. -/
theorem period_pos {s : Word} (hs : 0 < s.toNat) : 0 < period block s := (lt_period_iff hs 0).mpr (by omega)

/-- R89: the closed form of the accumulator. -/
theorem accAfter_toNat {s : Word} (hs : LegalStep block s) (n : Nat) :
    (accAfter block s n).toNat = closedForm block s n := by
  obtain ⟨hpos, -, -⟩ := legalStep_bounds hs
  induction n with
  | zero => simp [accAfter, closedForm]
  | succ n ih =>
    have hmod : n % period block s < period block s := Nat.mod_lt n (period_pos hpos)
    have hacc : closedForm block s n < 2 ^ 31 := (lt_period_iff hpos _).mp hmod
    have hnext : closedForm block s n + s.toNat = (n % period block s + 1) * s.toNat := (Nat.succ_mul _ _).symm
    have hsync := lt_period_iff hpos (n % period block s + 1)
    rw [accAfter, nx_toNat hs (ih ▸ hacc), ih, hnext, closedForm, ← Nat.mod_add_mod]
    by_cases h : n % period block s + 1 = period block s
    · rw [if_pos (by omega), h, Nat.mod_self, Nat.zero_mul]
    · have hin : n % period block s + 1 < period block s := by omega
      rw [if_neg (by omega), Nat.mod_eq_of_lt hin]

/-- R28 S1: the walk from 0 stays below 2^31. -/
theorem accAfter_lt {s : Word} (hs : LegalStep block s) (n : Nat) : (accAfter block s n).toNat < 2 ^ 31 := by
  obtain ⟨hpos, -, -⟩ := legalStep_bounds hs
  rw [accAfter_toNat hs]
  exact (lt_period_iff hpos _).mp (Nat.mod_lt n (period_pos hpos))

/-- R28 S6: the walk from 0 stays on the multiples of 2^17. -/
theorem accAfter_dvd {s : Word} (hs : LegalStep block s) (n : Nat) : 2 ^ 17 ∣ (accAfter block s n).toNat := by
  obtain ⟨-, -, hdvd⟩ := legalStep_bounds hs
  rw [accAfter_toNat hs]
  exact Dvd.dvd.mul_left hdvd _

/-- R28 S6, R92: the quantizer keeps the multiples of 2^17. -/
theorem quantize_dvd {a : Word} (ha : 2 ^ 17 ∣ a.toNat) : 2 ^ 17 ∣ (quantize block a : Word).toNat := by
  rw [quantize, toS, BitVec.toNat_ofInt, Config.block_outOffsetWord]
  omega

/-- R89, R92: the waveform is the closed form, quantized. -/
theorem closedFormWord_eq {s : Word} (hs : LegalStep block s) (p : Position) :
    Safety.closedFormWord s p = quantize block (accAfter block s p.toNat) := by
  rw [Safety.closedFormWord, ← accAfter_toNat hs, BitVec.ofNat_toNat, BitVec.setWidth_eq]

/-- R55, R82: the position is the argument modulo 128. -/
theorem positionOf_toNat (arg : Word) : (positionOf arg : Position).toNat = (arg.toInt % 128).toNat := by
  rw [positionOf, BitVec.extractLsb'_toNat, Nat.shiftRight_zero, BitVec.toInt_eq_toNat_cond]
  split <;> omega

end Sys2Proof.Proofs
end

section
/-! What the six registers hold between commands (spec/10_state.md R28), for all constants and widths, and what a GET then
answers (R29). -/

namespace Sys2Proof.Proofs

open Sys2Proof.Machine Sys2Proof.Laws
open Config (Params)

variable {argW posW accW outW : Nat}

/-- R85, R92: the output at an accumulator of 0. -/
@[simp] theorem quantize_zero (k : Params) : (quantize k 0#accW : BitVec outW) = k.outAtZero := by
  simp [quantize, Params.outAtZero]

/-- R28: `A(s, n)` walked m steps further. -/
theorem nx_iterate_accAfter (k : Params) (s : BitVec accW) (n m : Nat) :
    (nx k s)^[m] (accAfter k s n) = accAfter k s (n + m) := by
  induction m with
  | zero => rfl
  | succ m ih => rw [Function.iterate_succ_apply', ih]; rfl

/-- R28 S2: `acc` is the accumulator of `lastPos`. -/
def AccOnWalk (k : Params) (s : State.At posW accW outW) : Prop := s.acc = accAfter k s.step s.lastPos.toNat

/-- R28 S2 to S4: `acc` is the accumulator of `lastPos`, and each cache entry holds the output of its position. -/
structure OnWaveform (k : Params) (s : State.At posW accW outW) : Prop where
  acc_eq : AccOnWalk k s
  lastVal_eq : s.lastVal = quantize k (accAfter k s.step s.lastPos.toNat)
  prevVal_eq : s.prevVal = quantize k (accAfter k s.step s.prevPos.toNat)

/-- R30, R72: both entries of position 0, and the accumulator there, are on the waveform of every step. -/
theorem onWaveform_of_zero {k : Params} {s : State.At posW accW outW} (hacc : s.acc = 0#accW)
    (hlastPos : s.lastPos = 0#posW) (hprevPos : s.prevPos = 0#posW) (hlastVal : s.lastVal = k.outAtZero)
    (hprevVal : s.prevVal = k.outAtZero) : OnWaveform k s := by
  constructor
  · simp [AccOnWalk, hacc, hlastPos, accAfter]
  · simp [hlastVal, hlastPos, accAfter]
  · simp [hprevVal, hprevPos, accAfter]

/-- R72: RESET, and with it SETWAVE, puts every state on the waveform. -/
theorem onWaveform_restart (k : Params) (s : State.At posW accW outW) : OnWaveform k (s.restart k) :=
  onWaveform_of_zero rfl rfl rfl rfl rfl

/-- R115: so does hardware reset. -/
theorem onWaveform_hardwareReset (k : Params) (s : State.At posW accW outW) : OnWaveform k (s.hardwareReset k) :=
  onWaveform_of_zero rfl rfl rfl rfl rfl

/-- R84, R85: a miss starts its walk from a position whose accumulator it has. -/
theorem AccOnWalk.startMiss {k : Params} {s : State.At posW accW outW} (h : AccOnWalk k s) (p : BitVec posW) :
    AccOnWalk k (s.startMiss k p) := by
  rcases startMiss_cases k p s with ⟨_, e⟩ | ⟨_, e⟩
  · simp [AccOnWalk, e, accAfter]
  · rw [e]; exact h

/-- R87: one walk step below another position keeps `acc` that of `lastPos`. -/
theorem AccOnWalk.walkOnce {k : Params} {s : State.At posW accW outW} (h : AccOnWalk k s) {p : BitVec posW}
    (hp : s.lastPos < p) : AccOnWalk k (s.walkOnce k) := by
  simp only [AccOnWalk] at h ⊢
  rw [State.At.walkOnce_acc, State.At.walkOnce_lastPos, State.At.walkOnce_step, toNat_add_one _ p hp, accAfter, ← h]

/-- R84 to R87: the walk of a miss ends at the accumulator of its position. -/
theorem AccOnWalk.walk_of_miss {k : Params} {s : State.At posW accW outW} (h : AccOnWalk k s) (p : BitVec posW) :
    (nx k s.step)^[p.toNat - (s.startMiss k p).lastPos.toNat] (s.startMiss k p).acc = accAfter k s.step p.toNat := by
  have hstep : (s.startMiss k p).step = s.step := by
    rcases startMiss_cases k p s with ⟨_, e⟩ | ⟨_, e⟩ <;> rw [e] <;> rfl
  have hle : (s.startMiss k p).lastPos.toNat ≤ p.toNat := startMiss_le k p s
  have hacc := h.startMiss p
  rw [AccOnWalk, hstep] at hacc
  rw [hacc, nx_iterate_accAfter, Nat.add_sub_cancel' hle]

/-- R84, R87, R94: a miss shifts the one entry and fills the other with the output of its position. -/
theorem OnWaveform.missEffect {k : Params} {s : State.At posW accW outW} (h : OnWaveform k s) (p : BitVec posW) :
    OnWaveform k (missEffect k p s) := by
  rw [missEffect_eq, h.acc_eq.walk_of_miss p]
  exact ⟨rfl, rfl, h.lastVal_eq⟩

/-- R10: a response leaves the registers alone. -/
theorem OnWaveform.respond {k : Params} {s : State.At posW accW outW} (h : OnWaveform k s) (w : BitVec outW) :
    OnWaveform k (s.respond w) := ⟨h.acc_eq, h.lastVal_eq, h.prevVal_eq⟩

/-- R28: a GET keeps the registers on the waveform. -/
theorem OnWaveform.getEffect {k : Params} {s : State.At posW accW outW} (h : OnWaveform k s) (arg : BitVec argW) :
    OnWaveform k (getEffect k arg s) := by
  rcases getEffect_cases k arg s with ⟨_, e⟩ | ⟨_, _, e⟩ | ⟨_, _, e⟩ <;> rw [e]
  · exact h.respond _
  · exact h.respond _
  · exact (h.missEffect _).respond _

/-- R29: a GET answers the output of its position, from a cache entry or from the walk. -/
theorem OnWaveform.getEffect_rspData {k : Params} {s : State.At posW accW outW} (h : OnWaveform k s)
    (arg : BitVec argW) :
    (Machine.getEffect k arg s).rspData =
      quantize k (accAfter k s.step (positionOf arg : BitVec posW).toNat) := by
  rcases getEffect_cases k arg s with ⟨hlast, e⟩ | ⟨_, hprev, e⟩ | ⟨_, _, e⟩
  · rw [e, hlast]; exact h.lastVal_eq
  · rw [e, hprev]; exact h.prevVal_eq
  · rw [e, State.At.respond_rspData, missEffect_eq, h.acc_eq.walk_of_miss]

/-- R21, R28 S5: a GET keeps `step`. -/
theorem getEffect_step (k : Params) (arg : BitVec argW) (s : State.At posW accW outW) :
    (getEffect k arg s).step = s.step := by
  rcases getEffect_cases k arg s with ⟨_, e⟩ | ⟨_, _, e⟩ | ⟨_, _, e⟩ <;> simp [e, missEffect_eq]

/-- R132: a GET takes nothing from the response port. -/
theorem getEffect_observed (k : Params) (arg : BitVec argW) (s : State.At posW accW outW) :
    (getEffect k arg s).observed = s.observed := by
  rcases getEffect_cases k arg s with ⟨_, e⟩ | ⟨_, _, e⟩ | ⟨_, _, e⟩ <;> simp [e, missEffect_eq]

end Sys2Proof.Proofs
end

section
/-! The invariants S1 to S6 (spec/10_state.md R28): a legal step and registers on the waveform are all of them; every
command keeps them, and GET answers the waveform (R29) whatever the cache holds (R49). -/

namespace Sys2Proof.Proofs

open Sys2Proof.Machine Sys2Proof.Laws Sys2Proof.Safety
open Config (block Params)

/-- R28, R130: S1 and S6 follow from the others, during a walk too. -/
theorem walkInv_iff (s : State) : WalkInv s ↔ LegalStep block s.step ∧ AccOnWalk block s ∧
    s.prevVal = quantize block (accAfter block s.step s.prevPos.toNat) := by
  constructor
  · intro h
    exact ⟨h.stepLegal, h.accIsWalk, h.prevValIsOutput⟩
  · rintro ⟨hlegal, hacc, hprev⟩
    exact {
      accBelowSync := hacc ▸ accAfter_lt hlegal _
      accIsWalk := hacc
      prevValIsOutput := hprev
      stepLegal := hlegal
      accMultiple := hacc ▸ accAfter_dvd hlegal _
      prevValMultiple := hprev ▸ quantize_dvd (accAfter_dvd hlegal _) }

/-- R28: S1 to S6 say that `step` is legal and the registers are on its waveform. -/
theorem commandInv_iff (s : State) : CommandInv s ↔ LegalStep block s.step ∧ OnWaveform block s := by
  constructor
  · intro h
    exact ⟨h.stepLegal, h.accIsWalk, h.accIsWalk ▸ h.lastValIsOutput, h.prevValIsOutput⟩
  · rintro ⟨hlegal, hacc, hlast, hprev⟩
    have hwalk : WalkInv s := (walkInv_iff s).mpr ⟨hlegal, hacc, hprev⟩
    exact {
      toWalkInv := hwalk
      lastValIsOutput := hlast.trans (congrArg _ hacc.symm)
      lastValMultiple := hlast ▸ quantize_dvd (accAfter_dvd hlegal _) }

/-- R28: the invariants are about the six registers alone. -/
theorem walkInv_of_sameRegisters {s t : State} (h : SameRegisters s t) (hs : WalkInv s) : WalkInv t := by
  obtain ⟨hstep, hacc, hlastPos, -, hprevPos, hprevVal⟩ := h
  rw [walkInv_iff, AccOnWalk] at hs ⊢
  rwa [← hstep, ← hacc, ← hlastPos, ← hprevPos, ← hprevVal]

/-- R28: the invariants are about the six registers alone. -/
theorem commandInv_of_sameRegisters {s t : State} (h : SameRegisters s t) (hs : CommandInv s) : CommandInv t where
  toWalkInv := walkInv_of_sameRegisters h hs.toWalkInv
  lastValIsOutput := by
    obtain ⟨-, hacc, -, hlastVal, -, -⟩ := h
    exact hlastVal ▸ hacc ▸ hs.lastValIsOutput
  lastValMultiple := by
    obtain ⟨-, -, -, hlastVal, -, -⟩ := h
    exact hlastVal ▸ hs.lastValMultiple

/-- R128: the taking of a response keeps the invariants. -/
theorem commandInv_takeResponse {s : State} (hs : CommandInv s) : CommandInv s.takeResponse :=
  commandInv_of_sameRegisters (s := s) ⟨rfl, rfl, rfl, rfl, rfl, rfl⟩ hs

/-- R74: RESET establishes the invariants wherever `step` is legal. -/
theorem commandInv_restart {s : State} (hs : LegalStep block s.step) : CommandInv (s.restart block) :=
  (commandInv_iff _).mpr ⟨hs, onWaveform_restart block s⟩

/-- R28, R30: hardware reset establishes the invariants. -/
theorem commandInv_hardwareReset (s : State) : CommandInv (s.hardwareReset block) :=
  (commandInv_iff _).mpr ⟨legalStep_resetStep 32 block, onWaveform_hardwareReset block s⟩

/-- R28: GET keeps the invariants. -/
theorem commandInv_getEffect {s : State} (hs : CommandInv s) (arg : Word) : CommandInv (getEffect block arg s) := by
  obtain ⟨hlegal, hwave⟩ := (commandInv_iff s).mp hs
  exact (commandInv_iff _).mpr ⟨(getEffect_step block arg s).symm ▸ hlegal, hwave.getEffect arg⟩

/-- R80: everything GET does. -/
theorem exec_get (arg : Word) (s : State) : exec (.get arg) s = .next (getEffect block arg s) := rfl

/-- R28: every command keeps the invariants. -/
theorem exec_keeps_commandInv (i : Instr) {s : State} (hs : CommandInv s) : ∃ t, exec i s = .next t ∧ CommandInv t := by
  cases i with
  | setwave arg => exact ⟨_, exec_setwave arg s, commandInv_restart (legalStep_stepSize_variantOf block arg)⟩
  | get arg => exact ⟨_, exec_get arg s, commandInv_getEffect hs arg⟩
  | reset => exact ⟨_, exec_reset s, commandInv_restart hs.stepLegal⟩

/-- R29: what GET answers. -/
theorem getEffect_answers {s : State} (hs : CommandInv s) (arg : Word) :
    (getEffect block arg s).rspData = quantize block (accAfter block s.step (positionOf arg : Position).toNat) :=
  ((commandInv_iff s).mp hs).2.getEffect_rspData arg

/-- Settles O33. -/
theorem getAnswersTheWaveform : Obligations.GetAnswersTheWaveform := by
  intro arg s hs
  refine ⟨_, exec_get arg s, getEffect_rspValid block arg s, ?_⟩
  rw [getEffect_answers hs arg, positionOf_toNat]

/-- Settles O42. -/
theorem commandsKeepTheInvariants : Obligations.CommandsKeepTheInvariants :=
  ⟨fun i _ hs => exec_keeps_commandInv i hs, commandInv_hardwareReset⟩

/-- Settles O34: both answers are the waveform's. -/
theorem responseIndependentOfCache : Obligations.ResponseIndependentOfCache := by
  intro a b s u hs hu hstep hpos
  refine ⟨_, _, exec_get a s, exec_get b u, ?_⟩
  rw [getEffect_answers hs a, getEffect_answers hu b, hstep, hpos]

/-- Settles O19. -/
theorem variantRecoveredFromStep : Obligations.VariantRecoveredFromStep := by
  intro arg s
  refine ⟨_, exec_setwave arg s, ?_⟩
  rw [State.At.restart_step, State.At.setStep_step, variantOfStep_stepSize (variantOf_le block arg)]
  exact Int.toNat_of_nonneg (by rw [clamp]; omega)

end Sys2Proof.Proofs
end

section
/-! The responses of a command stream at the transaction level (spec/10_state.md R29, 41_position_query.md R89,
70_reset_and_hazards.md R132). -/

namespace Sys2Proof.Proofs

open Sys2Proof.Machine Sys2Proof.Laws Sys2Proof.Safety
open Config (block Params)

/-- R45: with no response to take, a command's transaction is its effect. -/
theorem transact_of_no_response {i : Instr} {s t : State} (he : exec i s = .next t) (hv : t.rspValid = false) :
    transact block i s = .next t := by
  rw [exec_eq_execAt] at he
  simp [transact, he, State.At.settleResponse, hv]

/-- R45: with a response, the transaction ends with its taking. -/
theorem transact_of_response {i : Instr} {s t : State} (he : exec i s = .next t) (hv : t.rspValid = true) :
    transact block i s = .next t.takeResponse := by
  rw [exec_eq_execAt] at he
  simp [transact, he, State.At.settleResponse, hv]

/-- R29, R132: from s to t the closed form's words for command i have been observed, and those for any stream after i
are the ones that t's step gives. -/
def ObservesClosedForm (i : Instr) (s t : State) : Prop :=
  ∀ is, t.observed ++ closedFormResponses t.step is = s.observed ++ closedFormResponses s.step (i :: is)

/-- R29, R45: one transaction keeps the invariants and observes what the closed form gives. -/
theorem transact_observesClosedForm (i : Instr) {s : State} (hs : CommandInv s) (hv : s.rspValid = false) :
    ∃ t, transact block i s = .next t ∧ CommandInv t ∧ t.rspValid = false ∧ ObservesClosedForm i s t := by
  cases i with
  | setwave arg =>
    exact ⟨_, transact_of_no_response (exec_setwave arg s) hv,
      commandInv_restart (legalStep_stepSize_variantOf block arg), hv, fun _ => rfl⟩
  | get arg =>
    refine ⟨_, transact_of_response (exec_get arg s) (getEffect_rspValid block arg s),
      commandInv_takeResponse (commandInv_getEffect hs arg), rfl, fun is => ?_⟩
    rw [State.At.takeResponse_observed, State.At.takeResponse_step, getEffect_observed, getEffect_step,
      getEffect_answers hs arg, closedFormResponses, closedFormWord_eq hs.stepLegal, List.append_assoc,
      List.singleton_append]
  | reset => exact ⟨_, transact_of_no_response (exec_reset s) hv, commandInv_restart hs.stepLegal, hv, fun _ => rfl⟩

/-- Settles O51, by induction on the command stream. -/
theorem streamResponsesAreTheClosedForm : Obligations.StreamResponsesAreTheClosedForm := by
  intro is
  induction is with
  | nil => exact fun s hs _ => ⟨s, rfl, hs, (List.append_nil _).symm⟩
  | cons i is ih =>
    intro s hs hv
    obtain ⟨u, htransact, hu, huv, hobserves⟩ := transact_observesClosedForm i hs hv
    obtain ⟨t, hrun, ht, hobserved⟩ := ih u hu huv
    exact ⟨t, by simp [runCommands, htransact, hrun], ht, hobserved.trans (hobserves is)⟩

end Sys2Proof.Proofs
end

section
/-! The block's invariant (spec/10_state.md R27, R28, 70_reset_and_hazards.md R130) at every clock edge and every step, and
what writes `step` (R21). -/

namespace Sys2Proof.Proofs

open Sys2Proof.Machine Sys2Proof.Laws Sys2Proof.Safety
open Config (block Params)

/-- R130: an idle block with no response waiting need only have S1 to S6. -/
theorem blockInv_of_idle {s : State} (hfsm : s.fsm = .idle) (hs : CommandInv s) (hv : s.rspValid = false) :
    BlockInv s := by
  refine .inl ⟨hfsm, hs, fun h => ?_⟩
  rw [hv] at h
  cases h

/-- R28, R52: a block ready for a command has S1 to S6. -/
theorem commandInv_of_ready {s : State} (hs : BlockInv s) (hready : cmdReady s = true) : CommandInv s := by
  obtain ⟨hidle, -, -⟩ := (cmdReady_iff s).mp hready
  rcases hs with ⟨-, hinv, -⟩ | ⟨hwalk, -⟩
  · exact hinv
  · rw [hidle] at hwalk
    cases hwalk

/-- R27, R130: the block's invariant is about the six registers, the control state, the target and the response. -/
theorem blockInv_congr {s t : State} (hregs : SameRegisters s t) (hrsp : SameResponse s t) (hfsm : s.fsm = t.fsm)
    (htgt : s.tgt = t.tgt) (hs : BlockInv s) : BlockInv t := by
  obtain ⟨hstep, -, hlastPos, -, -, -⟩ := id hregs
  obtain ⟨hdata, hvalid⟩ := hrsp
  rcases hs with ⟨hidle, hinv, hanswer⟩ | ⟨hwalk, hinv, hlt, hv⟩
  · exact .inl ⟨hfsm ▸ hidle, commandInv_of_sameRegisters hregs hinv, hvalid ▸ hdata ▸ hstep ▸ hanswer⟩
  · exact .inr ⟨hfsm ▸ hwalk, walkInv_of_sameRegisters hregs hinv, hlastPos ▸ htgt ▸ hlt, hvalid ▸ hv⟩

/-- R115: hardware reset establishes the block's invariant. -/
theorem blockInv_hardwareReset (s : State) : BlockInv (s.hardwareReset block) :=
  blockInv_of_idle rfl (commandInv_hardwareReset s) rfl

/-- R29, R130: the answer of an idle block's GET is an output of the waveform in force. -/
theorem blockInv_getEffect {s : State} (hfsm : s.fsm = .idle) (hs : CommandInv s) (arg : Word) :
    BlockInv (getEffect block arg s) := by
  refine .inl ⟨(getEffect_fsm block arg s).trans hfsm, commandInv_getEffect hs arg, fun _ => ⟨positionOf arg, ?_⟩⟩
  rw [getEffect_answers hs arg, getEffect_step]

/-- R130: every command of a ready block keeps the block's invariant. -/
theorem blockInv_exec {i : Instr} {s t : State} (hready : cmdReady s = true) (hs : CommandInv s)
    (he : exec i s = .next t) : BlockInv t := by
  obtain ⟨hidle, hv, -⟩ := (cmdReady_iff s).mp hready
  cases i with
  | setwave arg =>
    cases he
    exact blockInv_of_idle hidle (commandInv_restart (legalStep_stepSize_variantOf block arg)) hv
  | get arg =>
    cases he
    exact blockInv_getEffect hidle hs arg
  | reset =>
    cases he
    exact blockInv_of_idle hidle (commandInv_restart hs.stepLegal) hv

/-- R126, R130: a ready block that starts a walk keeps the block's invariant, S3 apart. -/
theorem blockInv_startWalk {s : State} (hready : cmdReady s = true) (hs : CommandInv s) {p : Position}
    (hp : walkLength p s ≠ 0) : BlockInv ((s.startMiss block p).startWalk p) := by
  obtain ⟨hlegal, hwave⟩ := (commandInv_iff s).mp hs
  have hwalking := walking_startWalk block p hready
  have hdist := startMiss_add_walkLength block hp
  have hlt : (s.startMiss block p).lastPos < p := by rw [BitVec.lt_def]; omega
  have hacc : AccOnWalk block (s.startMiss block p) := hwave.acc_eq.startMiss p
  refine .inr ⟨rfl, (walkInv_iff _).mpr ⟨?_, hacc, ?_⟩, hlt, hwalking.no_response⟩
  · rcases startMiss_cases block p s with ⟨_, e⟩ | ⟨_, e⟩ <;> rw [e] <;> exact hlegal
  · rcases startMiss_cases block p s with ⟨_, e⟩ | ⟨_, e⟩ <;> rw [e] <;> exact hwave.lastVal_eq

/-- R125, R126, R130: the edge that accepts a command keeps the block's invariant. -/
theorem blockInv_acceptEdge {i : Instr} {s t : State} (hready : cmdReady s = true) (hs : CommandInv s)
    (he : acceptEdge block i s = .next t) : BlockInv t := by
  cases i with
  | setwave arg => exact blockInv_exec (i := .setwave arg) hready hs (by rw [exec_eq_execAt]; exact he)
  | get arg =>
    simp only [acceptEdge, Config.portArg_block] at he
    cases he
    by_cases h0 : walkLength (positionOf arg) s = 0
    · rw [acceptGet_of_walkLength_zero block arg s h0]
      exact blockInv_exec hready hs (exec_get arg s)
    · rw [acceptGet_of_walkLength_ne_zero block arg s h0]
      exact blockInv_startWalk hready hs h0
  | reset => exact blockInv_exec (i := .reset) hready hs he

/-- R128, R130: the response edge of an idle block keeps the block's invariant. -/
theorem blockInv_responseEdge (p : Pins) {s : State} (hidle : s.fsm = .idle) (hs : BlockInv s) :
    BlockInv (responseEdge p s) := by
  rcases responseEdge_cases p s with ⟨-, -, e⟩ | ⟨-, e⟩ <;> rw [e]
  · rcases hs with ⟨-, hinv, -⟩ | ⟨hwalk, -⟩
    · exact blockInv_of_idle hidle (commandInv_takeResponse hinv) rfl
    · rw [hidle] at hwalk
      cases hwalk
  · exact hs

/-- R127, R130: an edge of a walk short of its target keeps the block's invariant; the last one fills the cache and
answers, which gives S3 again. -/
theorem blockInv_walkEdge {s : State} (hfsm : s.fsm = .walk) (hs : WalkInv s) (hlt : s.lastPos < s.tgt)
    (hv : s.rspValid = false) : BlockInv (walkEdge block s) := by
  obtain ⟨hlegal, hacc, hprev⟩ := (walkInv_iff s).mp hs
  have hacc' : AccOnWalk block (s.walkOnce block) := hacc.walkOnce hlt
  have hval : (quantize block (s.walkOnce block).acc : Word) =
      quantize block (accAfter block s.step (s.lastPos + 1#7).toNat) := congrArg (quantize block) hacc'
  rcases walkEdge_cases block s with ⟨-, e⟩ | ⟨hne, e⟩ <;> rw [e]
  · exact .inl ⟨rfl, (commandInv_iff _).mpr ⟨hlegal, hacc', hval, hprev⟩, fun _ => ⟨s.lastPos + 1#7, hval⟩⟩
  · have hpos := toNat_add_one s.lastPos s.tgt hlt
    have hne' : (s.lastPos + 1#7).toNat ≠ s.tgt.toNat := fun h => hne (BitVec.eq_of_toNat_eq h)
    have hlt' : (s.walkOnce block).lastPos < s.tgt := by
      rw [BitVec.lt_def] at hlt ⊢
      rw [State.At.walkOnce_lastPos]
      omega
    exact .inr ⟨hfsm, (walkInv_iff _).mpr ⟨hlegal, hacc', hprev⟩, hlt', hv⟩

/-- R127, R128, R130: an edge at which nothing is accepted keeps the block's invariant. -/
theorem blockInv_plainEdge (p : Pins) {s : State} (hs : BlockInv s) : BlockInv (plainEdge block p s) := by
  have hs' := hs
  rcases hs with ⟨hidle, -, -⟩ | ⟨hwalk, hinv, hlt, hv⟩
  · have hplain : plainEdge block p s = responseEdge p s := by simp [plainEdge, hidle]
    rw [hplain]
    exact blockInv_responseEdge p hidle hs'
  · have hplain : plainEdge block p s = walkEdge block s := by simp [plainEdge, responseEdge, hwalk, hv]
    rw [hplain]
    exact blockInv_walkEdge hwalk hinv hlt hv

/-- Settles O44, by the cases of a clock edge. -/
theorem clockEdgeKeepsBlockInvariant : Obligations.ClockEdgeKeepsBlockInvariant := by
  intro p s t hs he
  rcases clockEdge_cases block p s with ⟨-, e⟩ | ⟨ha, i, -, e⟩ | ⟨-, -, e⟩ | ⟨-, -, e⟩ <;> rw [e] at he
  · cases he
    exact blockInv_hardwareReset s
  · obtain ⟨-, -, hready⟩ := (accepts_iff p s).mp ha
    exact blockInv_acceptEdge hready (commandInv_of_ready hs hready) he
  · cases he
  · cases he
    exact blockInv_plainEdge p (blockInv_congr (s := s) ⟨rfl, rfl, rfl, rfl, rfl, rfl⟩ ⟨rfl, rfl⟩ rfl rfl hs)

/-- The host's samples are no part of the block's invariant (log entry 2). -/
theorem blockInv_popInputs {s : State} (hs : BlockInv s) : BlockInv s.popInputs :=
  blockInv_congr (s := s) ⟨rfl, rfl, rfl, rfl, rfl, rfl⟩ ⟨rfl, rfl⟩ rfl rfl hs

/-- Settles O43: a step is a command of a ready block or a clock edge. -/
theorem stepKeepsBlockInvariant : Obligations.StepKeepsBlockInvariant := by
  intro s t hs he
  rcases step_cases s with ⟨ha, i, -, e⟩ | ⟨-, -, e⟩ | ⟨-, e⟩ <;> rw [e] at he
  · obtain ⟨-, -, hready⟩ := (accepts_iff _ s).mp ha
    have hready' : cmdReady s.popInputs = true := hready
    exact blockInv_exec hready' (commandInv_of_ready (blockInv_popInputs hs) hready') he
  · cases he
  · exact clockEdgeKeepsBlockInvariant _ _ t (blockInv_popInputs hs) he

/-! ### What writes `step` -/

/-- R54: the opcode of a decoded word. -/
theorem opField_of_decode {c : CommandWord} {i : Instr} (hd : decode c = .ok i) : opField c = opcodeOf i := by
  rcases decode_cases c with ⟨hop, e⟩ | ⟨hop, e⟩ | ⟨hop, e⟩ | ⟨hop, e⟩ <;> rw [e] at hd <;> cases hd <;> exact hop

/-- R21: of the commands, only SETWAVE writes `step`. -/
theorem exec_step_cases {i : Instr} {s t : State} (he : exec i s = .next t) :
    t.step = s.step ∨ (opcodeOf i = 1#2 ∧ LegalStep block t.step) := by
  cases i with
  | setwave arg => cases he; exact .inr ⟨rfl, legalStep_stepSize_variantOf block arg⟩
  | get arg => cases he; exact .inl (getEffect_step block arg s)
  | reset => cases he; exact .inl rfl

/-- R127, R128: an edge at which nothing is accepted keeps `step`. -/
theorem plainEdge_step {posW accW outW : Nat} (k : Params) (p : Pins) (s : State.At posW accW outW) :
    (plainEdge k p s).step = s.step := by
  have hresponse : (responseEdge p s).step = s.step := by
    rcases responseEdge_cases p s with ⟨-, -, e⟩ | ⟨-, e⟩ <;> rw [e]; rfl
  rw [plainEdge]
  split
  · rcases walkEdge_cases k (responseEdge p s) with ⟨-, e⟩ | ⟨-, e⟩ <;> rw [e] <;> exact hresponse
  · exact hresponse

/-- R21: everything that a step can do to `step`. -/
theorem step_step_cases {s t : State} (he : step s = .next t) :
    t.step = s.step ∨ (LegalStep block t.step ∧
      ((nextPins s).rst = true ∨ (accepts (nextPins s) s = true ∧ (nextPins s).cmdOp = 1#2))) := by
  rcases step_cases s with ⟨ha, i, hd, e⟩ | ⟨-, -, e⟩ | ⟨hna, e⟩ <;> rw [e] at he
  · have hop : (nextPins s).cmdOp = opcodeOf i := (opField_word _).symm.trans (opField_of_decode hd)
    rcases exec_step_cases he with hkeep | ⟨hset, hlegal⟩
    · exact .inl hkeep
    · exact .inr ⟨hlegal, .inr ⟨ha, hop.trans hset⟩⟩
  · cases he
  · rcases clockEdge_cases block (nextPins s) s.popInputs with ⟨hr, e⟩ | ⟨ha, -⟩ | ⟨ha, -⟩ | ⟨-, -, e⟩
    · rw [e] at he
      cases he
      exact .inr ⟨legalStep_resetStep 32 block, .inl hr⟩
    · rw [accepts_popInputs, hna] at ha
      cases ha
    · rw [accepts_popInputs, hna] at ha
      cases ha
    · rw [e] at he
      cases he
      exact .inl (plainEdge_step block _ _)

/-- Settles O20. -/
theorem onlySetwaveAndHardwareResetWriteStep : Obligations.OnlySetwaveAndHardwareResetWriteStep := by
  intro s t he
  rcases step_step_cases he with hkeep | ⟨hlegal, hcause⟩
  · exact ⟨fun hne => absurd hkeep hne, fun hs => hkeep.symm ▸ hs⟩
  · exact ⟨fun _ => hcause, fun _ => hlegal⟩

end Sys2Proof.Proofs
end

section
/-! The state after hardware reset (spec/10_state.md R30, 70_reset_and_hazards.md R115, R117). -/

namespace Sys2Proof.Proofs

open Sys2Proof.Machine Sys2Proof.Laws Sys2Proof.Safety
open Config (block Params)

/-- R115: an edge with `rst = 1` accepts no command. -/
theorem accepts_of_rst {posW accW outW : Nat} {p : Pins} (s : State.At posW accW outW) (hr : p.rst = true) :
    accepts p s = false := by
  simp [accepts, hr]

/-- R103, R115: an edge with `rst = 1` is hardware reset. -/
theorem clockEdge_of_rst {posW accW outW : Nat} (k : Params) {p : Pins} (s : State.At posW accW outW)
    (hr : p.rst = true) : clockEdge k p s = .next (s.hardwareReset k) := by
  rw [clockEdge, if_pos hr]

/-- R115: so is a step on such a sample. -/
theorem step_of_rst {s : State} (hr : (nextPins s).rst = true) : step s = .next (s.popInputs.hardwareReset block) := by
  rw [step, stepOn, accepts_of_rst _ hr]
  exact clockEdge_of_rst block _ hr

/-- R30: hardware reset gives the reset values. -/
theorem atReset_hardwareReset (s : State) : AtReset (s.hardwareReset block) :=
  ⟨rfl, rfl, rfl, rfl, rfl, rfl, rfl, rfl⟩

/-- R28, U5: the invariants hold in the reset state of every legal `RESET_STEP`. -/
theorem commandInv_resetWith (v : Nat) : CommandInv (State.resetWith v) :=
  (commandInv_iff _).mpr ⟨legalStep_resetStep 32 { resetVariant := v }, onWaveform_of_zero rfl rfl rfl rfl rfl⟩

/-- U5: a legal step is the `RESET_STEP` of its variant. -/
theorem resetWith_step {v : Nat} (hv : v ≤ 59) : (State.resetWith v).step = stepSize block v := by
  rw [State.At.resetWith_eq, State.At.resetAt_step, Config.Params.resetStep, Nat.min_eq_left hv]
  rfl

/-- Settles O1. -/
theorem initialStateHoldsTheResetValues : Obligations.InitialStateHoldsTheResetValues :=
  ⟨⟨rfl, rfl, rfl, rfl, rfl, rfl, rfl, rfl⟩, rfl, rfl⟩

/-- Settles O2. -/
theorem hardwareResetEdge : Obligations.HardwareResetEdge :=
  ⟨fun _ s hr => ⟨_, clockEdge_of_rst block s hr, atReset_hardwareReset s, accepts_of_rst s hr, rfl, rfl⟩,
   fun _ hr => ⟨_, step_of_rst hr, atReset_hardwareReset _, rfl, rfl⟩⟩

/-- Settles O41. -/
theorem invariantsHoldAtReset : Obligations.InvariantsHoldAtReset := by
  have hblock : ∀ v, BlockInv (State.resetWith v) := fun v => blockInv_of_idle rfl (commandInv_resetWith v) rfl
  refine ⟨?_, fun v => ⟨commandInv_resetWith v, hblock v⟩, hblock 0⟩
  rintro w ⟨v, hv, rfl⟩
  have hv' : v ≤ 59 := Nat.le_of_lt_succ hv
  exact ⟨v, hv', resetWith_step hv'⟩

end Sys2Proof.Proofs
end

section
/-! The steps of a block whose host offers a command stream (spec/20_memory.md R45, 30_encoding.md R53,
70_reset_and_hazards.md R132): two steps a command, the one that executes it and the one that settles its response. -/

namespace Sys2Proof.Proofs

open Sys2Proof.Machine Sys2Proof.Laws
open Config (block Params)

variable {argW posW accW outW : Nat}

/-! ### Transactions -/

/-- R27: settling a response keeps the control state. -/
@[simp] theorem settleResponse_fsm (s : State.At posW accW outW) : s.settleResponse.fsm = s.fsm := by
  cases h : s.rspValid <;> simp [State.At.settleResponse, h]

/-- R52: settling a response keeps `rst_q`. -/
@[simp] theorem settleResponse_rstQ (s : State.At posW accW outW) : s.settleResponse.rstQ = s.rstQ := by
  cases h : s.rspValid <;> simp [State.At.settleResponse, h]

/-- R45: a transaction is its command's effect, the response settled. -/
theorem transact_eq_next_iff {k : Params} {i : Instr} {s t : State.At posW accW outW} :
    transact k i s = .next t ↔ ∃ u, execAt k i s = .next u ∧ u.settleResponse = t := by
  obtain ⟨u, he⟩ := execAt_next k i s
  simp [transact, he]

/-! ### The samples to come (log entry 2) are no operand of a command -/

/-- R84, R85: what precedes the walk neither reads nor writes the host's samples. -/
theorem startMiss_withInputs (k : Params) (p : BitVec posW) (s : State.At posW accW outW) (ps : List Pins) :
    State.At.startMiss k p { s with inputs := ps } = { s.startMiss k p with inputs := ps } := by
  rcases startMiss_cases k p s with ⟨h, e⟩ | ⟨h, e⟩ <;> rw [e]
  · exact if_pos h
  · exact if_neg h

/-- R84 to R87, R94: a miss neither reads nor writes the host's samples. -/
theorem missEffect_withInputs (k : Params) (p : BitVec posW) (s : State.At posW accW outW) (ps : List Pins) :
    missEffect k p { s with inputs := ps } = { missEffect k p s with inputs := ps } := by
  rw [missEffect_eq, missEffect_eq, startMiss_withInputs]
  rfl

/-- R80: GET neither reads nor writes the host's samples, on any of its paths. -/
theorem getEffect_withInputs (k : Params) (arg : BitVec argW) (s : State.At posW accW outW) (ps : List Pins) :
    getEffect k arg { s with inputs := ps } = { getEffect k arg s with inputs := ps } := by
  rcases getEffect_cases k arg s with ⟨h, e⟩ | ⟨hlast, hprev, e⟩ | ⟨hlast, hprev, e⟩ <;> rw [e]
  · exact if_pos h
  · exact (if_neg hlast).trans (if_pos hprev)
  · refine ((if_neg hlast).trans (if_neg hprev)).trans ?_
    rw [missEffect_withInputs]
    rfl

/-- R14: no command reads or writes the host's samples. -/
theorem execAt_withInputs {k : Params} {i : Instr} {s t : State.At posW accW outW} (he : execAt k i s = .next t)
    (ps : List Pins) : execAt k i { s with inputs := ps } = .next { t with inputs := ps } := by
  cases i with
  | setwave arg => cases he; rfl
  | get arg => cases he; exact congrArg _ (getEffect_withInputs k _ s ps)
  | reset => cases he; rfl

/-- R56: settling a response neither reads nor writes the host's samples. -/
theorem settleResponse_withInputs (s : State.At posW accW outW) (ps : List Pins) :
    State.At.settleResponse { s with inputs := ps } = { s.settleResponse with inputs := ps } := by
  cases h : s.rspValid <;> simp [State.At.settleResponse, h, State.At.takeResponse]

/-- R45: a transaction neither reads nor writes the host's samples. -/
theorem transact_withInputs {k : Params} {i : Instr} {s t : State.At posW accW outW} (ht : transact k i s = .next t)
    (ps : List Pins) : transact k i { s with inputs := ps } = .next { t with inputs := ps } := by
  obtain ⟨u, he, rfl⟩ := transact_eq_next_iff.mp ht
  exact transact_eq_next_iff.mpr ⟨_, execAt_withInputs he ps, settleResponse_withInputs u ps⟩

/-! ### The two steps of a command -/

/-- R121: a host that only takes a response has no command accepted. -/
theorem accepts_takePins (s : State.At posW accW outW) : accepts takePins s = false := rfl

/-- R56, R111, R128: an edge of an idle block at which the host is ready to take a response settles it, if there is one,
and does nothing else. -/
theorem clockEdge_takePins (k : Params) {s : State.At posW accW outW} (hidle : s.fsm = .idle) (hq : s.rstQ = false) :
    clockEdge k takePins s = .next s.settleResponse := by
  rw [clockEdge_of_not_accepts k rfl (accepts_takePins s) hq]
  simp [plainEdge, responseEdge, hidle, State.At.settleResponse, takePins]

/-- R14, R53: the step of a ready block on a sample that offers command i executes i. -/
theorem step_offerPins {i : Instr} {s t : State} {ps : List Pins} (hready : cmdReady s = true)
    (hin : s.inputs = offerPins (encode i) :: ps) (he : exec i s = .next t) :
    step s = .next { t with inputs := ps } := by
  have hpins : nextPins s = offerPins (encode i) := by rw [nextPins, hin]; rfl
  have haccepts : accepts (nextPins s) s = true := by rw [hpins]; exact (accepts_iff _ s).mpr ⟨rfl, rfl, hready⟩
  have hdecode : decode (nextPins s).word = .ok i := by rw [hpins, word_offerPins, decode_encode]
  rw [exec_eq_execAt] at he
  rw [step_of_accepts haccepts hdecode, exec_eq_execAt, State.At.popInputs, hin]
  exact execAt_withInputs he ps

/-- R56, R128: the step of an idle block on a sample that takes a response accepts nothing, so it is that
clock edge, which settles the response. -/
theorem step_takePins {s : State} (ps : List Pins) (hidle : s.fsm = .idle) (hq : s.rstQ = false) :
    step { s with inputs := takePins :: ps } = .next { s.settleResponse with inputs := ps } := by
  rw [← settleResponse_withInputs]
  exact clockEdge_takePins block (s := { s with inputs := ps }) hidle hq

/-- R45, R53: on the samples of a stream's first command, two steps of a ready block are that command's transaction. -/
theorem core_run_portSamples_cons {i : Instr} {is : List Instr} {s t : State} (hready : cmdReady s = true)
    (hin : s.inputs = portSamples (i :: is)) (htransact : transact block i s = .next t) (ht : cmdReady t = true)
    (n : Nat) : Host.Core.run core (n + 2) s = Host.Core.run core n { t with inputs := portSamples is } := by
  obtain ⟨u, he, rfl⟩ := transact_eq_next_iff.mp htransact
  obtain ⟨hidle, -, hq⟩ := (cmdReady_iff _).mp ht
  rw [settleResponse_fsm] at hidle
  rw [settleResponse_rstQ] at hq
  rw [← exec_eq_execAt] at he
  have hexecute : step s = .next { u with inputs := takePins :: portSamples is } := step_offerPins hready hin he
  exact (core_run_next (n + 1) _ _ hexecute).trans (core_run_next n _ _ (step_takePins _ hidle hq))

/-- R132: a ready block with no sample left has ended its run. -/
theorem runOver_of_ready {s : State.At posW accW outW} (hready : cmdReady s = true) (hin : s.inputs = []) :
    runOver s = true := by
  obtain ⟨hidle, hv, -⟩ := (cmdReady_iff s).mp hready
  simp [runOver, hin, hidle, hv]

/-- Settles O50, by induction on the command stream. -/
theorem stepsRunTheCommandStream : Obligations.StepsRunTheCommandStream := by
  intro is
  induction is with
  | nil =>
    intro s hready hin
    have hnone : s.inputs = [] := hin
    exact ⟨s, rfl, by rw [← hnone]; rfl, runOver_of_ready hready hnone⟩
  | cons i is ih =>
    intro s hready hin
    obtain ⟨u, htransact, hu, -⟩ := runsAsTransaction_of_ready block i hready
    obtain ⟨t, hrun, hcommands, hover⟩ := ih { u with inputs := portSamples is } hu rfl
    have hrun' := core_run_portSamples_cons hready hin htransact hu (2 * is.length)
    exact ⟨t, hrun'.trans hrun, by simp [runCommands, transact_withInputs htransact, hcommands], hover⟩

end Sys2Proof.Proofs
end

section
/-! The command word as a number, the decoder and the encoder both ways (spec/30_encoding.md R54, R57 to R59), and the
lines of the assembler (R60 to R62). -/

namespace Sys2Proof.Proofs

open Sys2Proof.Machine Sys2Proof.Laws

/-! ### Command words -/

/-- R54, R62: a command word as a number. -/
theorem commandWord_toNat (op : BitVec 2) (arg : Word) :
    (commandWord op arg).toNat = op.toNat <<< 32 ||| arg.toNat := BitVec.toNat_append op arg

/-- R54: op is what a command word holds above its 32 argument bits. -/
theorem opField_toNat (c : CommandWord) : (opField c).toNat = c.toNat / 2 ^ 32 := by
  have hc : c.toNat < 2 ^ 34 := c.isLt
  rw [opField, BitVec.extractLsb'_toNat, Nat.shiftRight_eq_div_pow]
  omega

/-- R58: op 00 is the command words below 2^32. -/
theorem opField_eq_zero_iff (c : CommandWord) : opField c = 0#2 ↔ c.toNat < 2 ^ 32 := by
  rw [← BitVec.toNat_inj, opField_toNat, BitVec.toNat_ofNat]
  omega

/-- R58: the decoder rejects op 00 and nothing else. -/
theorem decode_eq_error_iff (c : CommandWord) : decode c = .error .reservedOpcode ↔ opField c = 0#2 := by
  rcases decode_cases c with ⟨hop, e⟩ | ⟨hop, e⟩ | ⟨hop, e⟩ | ⟨hop, e⟩ <;> simp [hop, e]

/-- R54, R57: RESET's encoding is any RESET word with its argument bits masked away. -/
theorem encode_reset_of_opField {c : CommandWord} (hop : opField c = 3#2) : encode .reset = c &&& rowMask := by
  rw [← commandWord_fields c, hop, OpcodeRow.commandWord_masked]
  rfl

/-- R54, R57: a decoded word is its command's encoding, but for the argument bits that RESET ignores. -/
theorem encode_of_decode {c : CommandWord} {i : Instr} (hd : decode c = .ok i) :
    encode i = c ∨ (i = .reset ∧ encode i = c &&& rowMask) := by
  have hfields := commandWord_fields c
  rcases decode_cases c with ⟨hop, e⟩ | ⟨hop, e⟩ | ⟨hop, e⟩ | ⟨-, e⟩ <;> rw [e] at hd <;> cases hd
  · exact .inl (by rwa [hop] at hfields)
  · exact .inl (by rwa [hop] at hfields)
  · exact .inr ⟨rfl, encode_reset_of_opField hop⟩

/-- R58, R59: a word with another op than 00 is a command. -/
theorem decode_ok_of_opField_ne_zero {c : CommandWord} (h : opField c ≠ 0#2) : ∃ i, decode c = .ok i := by
  cases hd : decode c with
  | ok i => exact ⟨i, rfl⟩
  | error e =>
    cases e
    exact absurd ((decode_eq_error_iff c).mp hd) h

/-- Settles O12. -/
theorem decodeAndEncodeAgree : Obligations.DecodeAndEncodeAgree := by
  refine ⟨fun i _ => decode_encode i, fun c i hd => ⟨opField_of_decode hd, encode_of_decode hd⟩, fun c => ?_⟩
  rw [← opField_eq_zero_iff c]
  exact ⟨decode_eq_error_iff c, or_iff_not_imp_left.mpr decode_ok_of_opField_ne_zero⟩

/-- Settles O11, each word by its evaluation. -/
theorem writtenWordsDecode : Obligations.WrittenWordsDecode :=
  ⟨rfl, rfl, rfl, rfl, rfl, rfl, rfl⟩

/-! ### Assembler lines -/

/-- R60: the immediates that the assembler accepts. -/
theorem immInRange_iff (imm : Int) : immInRange imm = true ↔ -2 ^ 31 ≤ imm ∧ imm < 2 ^ 31 := by
  rw [immInRange, decide_eq_true_iff]
  omega

/-- R60, R61: an accepted line assembles to its commands. -/
theorem assembleLine_of_wellFormed {l : AsmLine} (h : l.wellFormed = true) : assembleLine l = .ok (expandLine l) :=
  if_pos h

/-- R60, R61: every other line is rejected for its immediate. -/
theorem assembleLine_of_not_wellFormed {l : AsmLine} (h : ¬ l.wellFormed = true) :
    assembleLine l = .error .immediateOutOfRange :=
  if_neg h

/-- R9: `wrap_32(imm)` as a number. -/
theorem toS32_toNat (imm : Int) : (toS32 imm).toNat = (imm % 2 ^ 32).toNat := BitVec.toNat_ofInt imm

/-- R62: the word of a SETWAVE or GET line. -/
theorem commandWord_toS32 (op : BitVec 2) (imm : Int) :
    (commandWord op (toS32 imm)).toNat = op.toNat <<< 32 ||| (imm % 2 ^ 32).toNat := by
  rw [commandWord_toNat, toS32_toNat]

/-- Settles O13. -/
theorem assemblerLineWord : Obligations.AssemblerLineWord := by
  refine ⟨fun imm hlo hhi => ?_, ⟨.reset, rfl, commandWord_toNat 3#2 0#32⟩, fun imm hout => ?_⟩
  · have hin : immInRange imm = true := (immInRange_iff imm).mpr ⟨hlo, hhi⟩
    exact ⟨⟨_, assembleLine_of_wellFormed (l := .setwave imm) hin, commandWord_toS32 1#2 imm⟩,
      ⟨_, assembleLine_of_wellFormed (l := .get imm) hin, commandWord_toS32 2#2 imm⟩⟩
  · have hin : ¬ immInRange imm = true := by
      rw [immInRange_iff]
      omega
    exact ⟨assembleLine_of_not_wellFormed (l := .setwave imm) hin, assembleLine_of_not_wellFormed (l := .get imm) hin⟩

/-- R61: GETPAIR is accepted exactly when both of its positions are. -/
theorem getpair_wellFormed_iff (imm : Int) :
    (AsmLine.getpair imm).wellFormed = true ↔ immInRange imm = true ∧ immInRange (imm + 1) = true :=
  Bool.and_eq_true_iff

/-- Settles O14. -/
theorem pseudoInstructionsExpand : Obligations.PseudoInstructionsExpand := by
  refine ⟨fun imm hlo hhi => ?_, fun imm hout => assembleLine_of_not_wellFormed ?_, rfl⟩
  · have h0 : immInRange imm = true := (immInRange_iff imm).mpr ⟨hlo, by omega⟩
    have h1 : immInRange (imm + 1) = true := (immInRange_iff (imm + 1)).mpr ⟨by omega, hhi⟩
    exact ⟨_, _, assembleLine_of_wellFormed (l := .get imm) h0, assembleLine_of_wellFormed (l := .get (imm + 1)) h1,
      assembleLine_of_wellFormed ((getpair_wellFormed_iff imm).mpr ⟨h0, h1⟩)⟩
  · rw [getpair_wellFormed_iff, immInRange_iff, immInRange_iff]
    omega

end Sys2Proof.Proofs
end

section
/-! Every decodable command word is printed as a line that assembles back to its command (spec/30_encoding.md R60; the
text details of log entry 17): digits, words, lines, then command words. -/

namespace Sys2Proof.Proofs

open Sys2Proof.Machine

/-! ### Digits -/

/-- R60: the characters of a decimal literal. -/
def DecDigits (cs : List Char) : Prop := ∀ c ∈ cs, (decDigit c).isSome = true

/-- The characters that `decimalDigits` writes are read back as their digits. -/
theorem decDigit_ofNat : ∀ d < 10, decDigit (Char.ofNat (48 + d)) = some d := by decide

/-- The shape of `decimalDigits`: one digit written for each division by the base. -/
theorem decimalDigits_cases (fuel n : Nat) (ds : List Char) :
    (n < 10 ∧ decimalDigits (fuel + 1) n ds = Char.ofNat (48 + n) :: ds) ∨
    (10 ≤ n ∧ decimalDigits (fuel + 1) n ds = decimalDigits fuel (n / 10) (Char.ofNat (48 + n % 10) :: ds)) := by
  by_cases h : n < 10
  · exact .inl ⟨h, if_pos h⟩
  · exact .inr ⟨Nat.le_of_not_lt h, if_neg h⟩

theorem decDigits_nil : DecDigits [] := List.forall_mem_nil _

/-- A written digit in front of digits gives digits. -/
theorem DecDigits.cons {ds : List Char} (h : DecDigits ds) {d : Nat} (hd : d < 10) :
    DecDigits (Char.ofNat (48 + d) :: ds) := by
  rintro c (_ | ⟨_, hc⟩)
  · rw [decDigit_ofNat d hd]
    rfl
  · exact h c hc

/-- `decimalDigits` writes digits only, whatever its fuel. -/
theorem DecDigits.decimalDigits {ds : List Char} (h : DecDigits ds) (fuel n : Nat) :
    DecDigits (decimalDigits fuel n ds) := by
  induction fuel generalizing n ds with
  | zero => exact h
  | succ fuel ih =>
    rcases decimalDigits_cases fuel n ds with ⟨hn, e⟩ | ⟨-, e⟩ <;> rw [e]
    · exact h.cons hn
    · exact ih (h.cons (Nat.mod_lt n (by decide))) (n / 10)

/-- With enough fuel, reading the digits of n is reading on from n. -/
theorem readDigits_decimalDigits (fuel n : Nat) (ds : List Char) (hn : n < fuel) :
    readDigits decDigit 10 0 (decimalDigits fuel n ds) = readDigits decDigit 10 n ds := by
  induction fuel generalizing n ds with
  | zero => omega
  | succ fuel ih =>
    rcases decimalDigits_cases fuel n ds with ⟨hlt, e⟩ | ⟨hge, e⟩ <;> rw [e]
    · simp [readDigits, decDigit_ofNat n hlt]
    · have hdiv : n / 10 * 10 + n % 10 = n := Nat.div_add_mod' n 10
      rw [ih _ _ (by omega), readDigits, decDigit_ofNat _ (Nat.mod_lt n (by decide))]
      exact congrArg (readDigits decDigit 10 · ds) hdiv

/-- With fuel, `decimalDigits` writes at least one digit. -/
theorem decimalDigits_ne_nil (fuel n : Nat) (ds : List Char) (h : fuel ≠ 0 ∨ ds ≠ []) : decimalDigits fuel n ds ≠ [] := by
  induction fuel generalizing n ds with
  | zero => simpa [decimalDigits] using h
  | succ fuel ih =>
    rcases decimalDigits_cases fuel n ds with ⟨-, e⟩ | ⟨-, e⟩ <;> rw [e]
    · exact List.cons_ne_nil _ _
    · exact ih _ _ (.inr (List.cons_ne_nil _ _))

/-- The literal of a number reads as that number. -/
theorem readLiteral_decimalDigits {fuel n : Nat} (hn : n < fuel) :
    readLiteral decDigit 10 (decimalDigits fuel n []) = some n := by
  have hne := decimalDigits_ne_nil fuel n [] (.inl (by omega))
  rw [readLiteral, List.isEmpty_eq_false_iff.mpr hne]
  exact readDigits_decimalDigits fuel n [] hn

/-! ### Immediates -/

/-- R60: without a sign and a `0x`, a literal is decimal. -/
theorem readImm_of_decDigits {cs : List Char} (h : DecDigits cs) :
    readImm cs = (readLiteral decDigit 10 cs).map (fun n => (n : Int)) := by
  unfold readImm
  split
  · exact absurd (h '-' (by simp)) (by decide) -- a sign is no digit
  · exact absurd (h 'x' (by simp)) (by decide) -- nor is the `x` of `0x`
  · rfl

/-- R60: a printed immediate reads as itself. -/
theorem readImm_printImm (imm : Int) : readImm (printImm imm) = some imm := by
  cases imm with
  | ofNat n =>
    have hdigits : DecDigits (decimalDigits (n + 1) n []) := decDigits_nil.decimalDigits _ _
    rw [printImm, readImm_of_decDigits hdigits, readLiteral_decimalDigits (Nat.lt_succ_self n)]
    rfl
  | negSucc n =>
    rw [printImm, readImm, readLiteral_decimalDigits (Nat.lt_succ_self (n + 1))]
    rfl

/-! ### Words of a line -/

/-- Log entry 17: a character that neither separates words nor starts a comment. -/
def Plain (c : Char) : Prop := isBlank c = false ∧ c ≠ ';'

/-- Log entry 17: what is read as one word of a line. -/
structure IsWord (cs : List Char) : Prop where
  nonempty : cs ≠ []
  plain : ∀ c ∈ cs, Plain c

/-- A decimal digit is plain. -/
theorem plain_of_decDigit {c : Char} (h : (decDigit c).isSome = true) : Plain c := by
  refine ⟨Bool.eq_false_iff.mpr fun hb => ?_, ?_⟩
  · have hblank : c = ' ' ∨ c = '\t' := by simpa [isBlank] using hb
    rcases hblank with rfl | rfl <;> exact absurd h (by decide)
  · rintro rfl
    exact absurd h (by decide)

/-- R60: a printed immediate is one word. -/
theorem isWord_printImm (imm : Int) : IsWord (printImm imm) := by
  have hplain : ∀ fuel n, ∀ c ∈ decimalDigits fuel n [], Plain c := fun fuel n c hc =>
    plain_of_decDigit (decDigits_nil.decimalDigits fuel n c hc)
  cases imm with
  | ofNat n => exact ⟨decimalDigits_ne_nil _ _ _ (.inl (Nat.succ_ne_zero n)), hplain _ _⟩
  | negSucc n => exact ⟨List.cons_ne_nil _ _, List.forall_mem_cons.mpr ⟨⟨rfl, by decide⟩, hplain _ _⟩⟩

/-- R60: what stands before a comment stays. -/
theorem dropComment_append {cs : List Char} (h : ∀ c ∈ cs, Plain c) (rest : List Char) :
    dropComment (cs ++ rest) = cs ++ dropComment rest := by
  induction cs with
  | nil => rfl
  | cons c cs ih =>
    obtain ⟨⟨-, hc⟩, hcs⟩ := List.forall_mem_cons.mp h
    rw [List.cons_append, dropComment, if_neg hc, ih hcs, List.cons_append]

/-- Log entry 17: plain characters are read into the word. -/
theorem splitWords_append {cs : List Char} (h : ∀ c ∈ cs, Plain c) (word rest : List Char) :
    splitWords word (cs ++ rest) = splitWords (word ++ cs) rest := by
  induction cs generalizing word with
  | nil => rw [List.nil_append, List.append_nil]
  | cons c cs ih =>
    obtain ⟨⟨hc, -⟩, hcs⟩ := List.forall_mem_cons.mp h
    rw [List.cons_append, splitWords, hc, if_neg Bool.false_ne_true, ih hcs, List.append_assoc, List.singleton_append]

/-- Log entry 17: a word that has been read is kept. -/
theorem IsWord.flushWord_eq {w : List Char} (h : IsWord w) : flushWord w = [w] := by
  rw [flushWord, List.isEmpty_eq_false_iff.mpr h.nonempty]
  rfl

/-- Log entry 17: a line of one word. -/
theorem splitWords_one {w : List Char} (h : IsWord w) : splitWords [] (dropComment w) = [w] := by
  have hdrop : dropComment w = w := by simpa [dropComment] using dropComment_append h.plain []
  have hread : splitWords [] w = splitWords w [] := by simpa using splitWords_append h.plain [] []
  rw [hdrop, hread, splitWords, h.flushWord_eq]

/-- Log entry 17: a line of two words with a space between them. -/
theorem splitWords_two {m x : List Char} (hm : IsWord m) (hx : IsWord x) :
    splitWords [] (dropComment (m ++ ' ' :: x)) = [m, x] := by
  have hspace : dropComment (' ' :: x) = ' ' :: dropComment x := if_neg (by decide)
  have hblank (word cs : List Char) : splitWords word (' ' :: cs) = flushWord word ++ splitWords [] cs := if_pos rfl
  rw [dropComment_append hm.plain, hspace, splitWords_append hm.plain, hblank, splitWords_one hx, List.nil_append,
    hm.flushWord_eq, List.singleton_append]

/-! ### Lines -/

/-- R60, R61: a mnemonic with an operand is one word. -/
theorem isWord_of_unaryLine {m : List Char} {line : Int → AsmLine} (h : unaryLine m = some line) : IsWord m := by
  rw [unaryLine] at h
  split_ifs at h <;> subst m <;> exact ⟨by simp, by simp [Plain, isBlank]⟩

/-- R60, R61: a mnemonic without operand is one word. -/
theorem isWord_of_nullaryLine {m : List Char} {l : AsmLine} (h : nullaryLine m = some l) : IsWord m := by
  rw [nullaryLine] at h
  split_ifs at h <;> subst m <;> exact ⟨by simp, by simp [Plain, isBlank]⟩

/-- R60, R61: a mnemonic without operand is the whole of its line. -/
theorem parseLine_of_nullary {m : List Char} {l : AsmLine} (h : nullaryLine m = some l) :
    parseLine m = .ok (some l) := by
  simp [parseLine, splitWords_one (isWord_of_nullaryLine h), h]

/-- R60, R61: a mnemonic with an operand, a space and a printed immediate. -/
theorem parseLine_of_unary {m : List Char} {line : Int → AsmLine} (h : unaryLine m = some line) (imm : Int) :
    parseLine (m ++ ' ' :: printImm imm) = .ok (some (line imm)) := by
  simp [parseLine, splitWords_two (isWord_of_unaryLine h) (isWord_printImm imm), h, readImm_printImm]

/-- R60, R61: every printed line parses as itself. -/
theorem parseLine_printLine (l : AsmLine) : parseLine (printLine l) = .ok (some l) := by
  cases l with
  | setwave imm => exact parseLine_of_unary (m := ['S', 'E', 'T', 'W', 'A', 'V', 'E']) rfl imm
  | get imm => exact parseLine_of_unary (m := ['G', 'E', 'T']) rfl imm
  | reset => exact parseLine_of_nullary rfl
  | getpair imm => exact parseLine_of_unary (m := ['G', 'E', 'T', 'P', 'A', 'I', 'R']) rfl imm
  | restart => exact parseLine_of_nullary rfl

/-- R60: a disassembled line's immediate, the argument as a signed number, is in the assembler's range. -/
theorem wellFormed_disassemble (i : Instr) : (disassemble i).wellFormed = true := by
  have hrange (arg : Word) : immInRange arg.toInt = true :=
    (immInRange_iff _).mpr ⟨BitVec.le_toInt arg, BitVec.toInt_lt⟩
  cases i with
  | setwave arg => exact hrange arg
  | get arg => exact hrange arg
  | reset => rfl

/-- R60, R62: `to_s32` of the argument as a signed number is the argument, so a disassembled line stands for its command. -/
theorem expandLine_disassemble (i : Instr) : expandLine (disassemble i) = [i] := by
  have harg (arg : Word) : toS32 arg.toInt = arg := BitVec.ofInt_toInt
  cases i with
  | setwave arg => rw [disassemble, expandLine, harg]
  | get arg => rw [disassemble, expandLine, harg]
  | reset => rfl

/-- Settles O15: the printed line parses as itself, and stands for the command that it disassembles. -/
theorem disassembledTextAssemblesBack : Obligations.DisassembledTextAssemblesBack := by
  intro c i hd
  refine ⟨printLine (disassemble i), by simp [disassembleWord, hd], ?_⟩
  rw [assembleText, parseLine_printLine, ← expandLine_disassemble i]
  exact assembleLine_of_wellFormed (wellFormed_disassemble i)

end Sys2Proof.Proofs
end

section
/-! Acceptance, refusal and the response at the command port (spec/30_encoding.md R52, R53, R56, R58, R59, R64,
70_reset_and_hazards.md R116, R121, R128). -/

namespace Sys2Proof.Proofs

open Sys2Proof.Machine Sys2Proof.Laws Sys2Proof.Safety
open Config (block Params)

variable {posW accW outW : Nat}

/-! ### Op 00 -/

/-- R58, R64: an accepted word with op 00 is refused, whatever its command would run. -/
theorem runAccepted_of_op_zero (run : Instr → State.At posW accW outW → Answer posW accW outW) {c : CommandWord}
    (hop : opField c = 0#2) (s : State.At posW accW outW) : runAccepted run c s = .refused .reservedOpcode := by
  rw [runAccepted, (decode_eq_error_iff c).mpr hop]

/-- R64: the edge that accepts a command with op 00 refuses it. -/
theorem clockEdge_of_op_zero (k : Params) {p : Pins} {s : State.At posW accW outW} (ha : accepts p s = true)
    (hop : p.cmdOp = 0#2) : clockEdge k p s = .refused .reservedOpcode := by
  obtain ⟨hrst, -, -⟩ := (accepts_iff p s).mp ha
  simp [clockEdge, hrst, ha, runAccepted_of_op_zero _ ((opField_word p).trans hop)]

/-- R64: so does the step that accepts one. -/
theorem step_of_op_zero {s : State} (ha : accepts (nextPins s) s = true) (hop : (nextPins s).cmdOp = 0#2) :
    step s = .refused .reservedOpcode := by
  have hp : accepts (nextPins s) s.popInputs = true := (accepts_popInputs _ s).trans ha
  rw [step, stepOn, if_pos hp, runAccepted_of_op_zero exec ((opField_word _).trans hop)]

/-- Settles O6. -/
theorem reservedOpcodeIsRefused : Obligations.ReservedOpcodeIsRefused :=
  fun s ha hop => ⟨clockEdge_of_op_zero block ha hop, fun n => core_run_refused n s _ (step_of_op_zero ha hop)⟩

/-! ### Edges at which no command is accepted -/

/-- R115, R127, R128: an edge that accepts nothing is hardware reset or a plain edge. -/
theorem clockEdge_of_unaccepted (k : Params) {p : Pins} {s : State.At posW accW outW} (ha : accepts p s = false) :
    clockEdge k p s = .next (if p.rst then s.hardwareReset k else plainEdge k p (s.sampleRst p.rst)) := by
  cases hr : p.rst <;> simp [clockEdge, hr, ha]

/-- R53: of the ports, a plain edge reads `rsp_ready` alone. -/
theorem plainEdge_congr (k : Params) {p q : Pins} (h : p.rspReady = q.rspReady) (s : State.At posW accW outW) :
    plainEdge k p s = plainEdge k q s := by
  simp only [plainEdge, responseEdge, h]

/-- Settles O8. -/
theorem unacceptedOfferIsIgnored : Obligations.UnacceptedOfferIsIgnored := by
  intro p q s hp hq hrst hready
  rw [clockEdge_of_unaccepted block hp, clockEdge_of_unaccepted block hq, hrst, plainEdge_congr block hready]

/-- Settles O7: an accepted command has a next state or is op 00, and an edge that accepts nothing has a next state. -/
theorem onlyTheReservedOpcodeStops : Obligations.OnlyTheReservedOpcodeStops := by
  intro s
  rcases step_cases s with ⟨-, i, -, e⟩ | ⟨ha, hop, e⟩ | ⟨ha, e⟩
  · obtain ⟨t, ht⟩ := execAt_next block i s.popInputs
    exact .inl ⟨t, e.trans ((exec_eq_execAt i _).trans ht)⟩
  · exact .inr ⟨ha, hop, e⟩
  · exact .inl ⟨_, e.trans (clockEdge_of_unaccepted block ((accepts_popInputs _ s).trans ha))⟩

/-! ### Edges of an idle block that is not ready -/

/-- R128: without a reset, an edge of an idle block that is not ready is its response edge. -/
theorem clockEdge_of_idle_not_ready (k : Params) {p : Pins} {s : State.At posW accW outW} (hidle : s.fsm = .idle)
    (hn : cmdReady s = false) (hr : p.rst = false) : clockEdge k p s = .next (responseEdge p (s.sampleRst false)) := by
  have hidle' : (s.sampleRst false).fsm ≠ .walk := by simp [hidle]
  rw [clockEdge_of_unaccepted k (accepts_of_not_ready p hn), hr, if_neg Bool.false_ne_true, plainEdge, if_neg hidle']

/-- R52: a block with a response waiting is not ready. -/
theorem not_ready_of_response {s : State.At posW accW outW} (hv : s.rspValid = true) : cmdReady s = false := by
  simp [cmdReady, hv]

/-- Settles O3: `rst_q` alone keeps the block from being ready right after hardware reset, and the next edge clears it. -/
theorem readyOneCycleAfterReset : Obligations.ReadyOneCycleAfterReset := by
  intro p q s hp hq
  have hn : cmdReady (s.hardwareReset block) = false := rfl
  have hquiet : responseEdge q ((s.hardwareReset block).sampleRst false) = (s.hardwareReset block).sampleRst false := rfl
  have hedge := clockEdge_of_idle_not_ready block (p := q) (s := s.hardwareReset block) rfl hn hq
  rw [hquiet] at hedge
  exact ⟨_, _, clockEdge_of_rst block s hp, hn, hedge, ⟨rfl, rfl, rfl, rfl, rfl, rfl⟩, rfl⟩

/-- Settles O10: a waiting response keeps the block from being ready, and the edge is its response edge. -/
theorem responseEdgeTakesTheResponse : Obligations.ResponseEdgeTakesTheResponse := by
  intro p s hv hidle hr
  have hn := not_ready_of_response hv
  have hedge := clockEdge_of_idle_not_ready block hidle hn hr
  refine ⟨accepts_of_not_ready p hn, fun hready => ?_, fun hready => ?_⟩
  · have htake : responseEdge p (s.sampleRst false) = (s.sampleRst false).takeResponse := if_pos (by simp [hv, hready])
    rw [htake] at hedge
    exact ⟨_, hedge, rfl, rfl, ⟨rfl, rfl, rfl, rfl, rfl, rfl⟩, (cmdReady_iff _).mpr ⟨hidle, rfl, rfl⟩⟩
  · have hhold : responseEdge p (s.sampleRst false) = s.sampleRst false := if_neg (by simp [hready])
    rw [hhold] at hedge
    exact hedge

end Sys2Proof.Proofs
end

section
/-! SETWAVE and RESET (spec/40_variant_selection.md R70 to R74): the variant and its step size on numbers, and what a
restart writes and leaves. -/

namespace Sys2Proof.Proofs

open Sys2Proof.Machine Sys2Proof.Laws Sys2Proof.Safety
open Config (block Params)

/-! ### The variant and its step size -/

/-- R71: a variant in range is its own clamp. -/
theorem clampVariant_natCast {k : Params} {v : Nat} (hv : v ≤ k.varMax) : clampVariant k v = v := by
  simp only [clampVariant, clamp]
  omega

/-- R71: the clamp on this hardware, on integers. -/
theorem clampVariant_block (x : Int) : (clampVariant block x : Int) = min (max x 0) 59 := by
  simp only [clampVariant, clamp]
  omega

/-- R55: SETWAVE reads the argument word of a variant in range as that variant. -/
theorem variantIn_ofNat {v : Nat} (hv : v ≤ 59) : variantIn (BitVec.ofNat 32 v) = v := by
  rw [variantIn, BitVec.toInt_eq_toNat_of_lt] <;> rw [BitVec.toNat_ofNat] <;> omega

/-- R71: an argument and the word of its clamped variant select the same variant. -/
theorem variantOf_ofNat_variantOf (arg : Word) :
    variantOf block (BitVec.ofNat 32 (variantOf block arg)) = variantOf block arg := by
  have hle : variantOf block arg ≤ block.varMax := variantOf_le block arg
  rw [variantOf, variantIn_ofNat hle, clampVariant_natCast hle]

/-- Settles O17: SETWAVE depends on its argument through the variant alone, and the clamp is idempotent. -/
theorem variantIsClamped : Obligations.VariantIsClamped := by
  refine ⟨fun x => ?_, fun arg s => ?_⟩
  · have hclamp := clampVariant_block x
    omega
  · have hvariant : variantOf block (BitVec.ofNat 32 (clampVariant block arg.toInt)) = variantOf block arg :=
      variantOf_ofNat_variantOf arg
    rw [exec_setwave, exec_setwave, hvariant]

/-- R11, R73: the step size of a variant in table units. -/
theorem tableUnits_stepSize {v : Nat} (hv : v ≤ 59) :
    tableUnits block (stepSize block v : Word) = 1 + 11 * (v : Rat) / 128 := by
  rw [tableUnits, stepSize_toNat hv]
  push_cast
  ring

/-- Settles O18. -/
theorem stepSizesClosedForm : Obligations.StepSizesClosedForm := by
  refine ⟨fun v hv => ⟨?_, tableUnits_stepSize hv⟩, fun u v huv hv => ?_, ?_, ?_, fun v hv => ?_⟩
  · rw [stepSize_toNat hv]
    omega
  · rw [stepSize_toNat (huv.le.trans hv), stepSize_toNat hv]
    omega
  · rw [tableUnits_stepSize (by decide)]
    norm_num
  · rw [tableUnits_stepSize (by decide)]
    norm_num
  · rw [tableUnits_stepSize hv, tableUnits_stepSize hv.le]
    push_cast
    ring

/-! ### Restarts -/

/-- R70, R72: a restart writes neither the response port nor anything around the six registers. -/
theorem restart_frame (s : State) : SameSurroundings s (s.restart block) ∧ SameResponse s (s.restart block) :=
  ⟨⟨⟨rfl, rfl, rfl, rfl, rfl⟩, rfl, rfl⟩, rfl, rfl⟩

/-- Settles O16. -/
theorem setwaveResult : Obligations.SetwaveResult := by
  intro arg s
  obtain ⟨hsurroundings, hresponse⟩ := restart_frame (s.setStep (stepSize block (variantOf block arg)))
  refine ⟨_, exec_setwave arg s, ?_, rfl, rfl, rfl, rfl, rfl, hsurroundings, hresponse⟩
  rw [State.At.restart_step, State.At.setStep_step, stepSize_toNat (variantOf_le block arg), Nat.mul_comm]
  rfl

/-- R72: a restarted state restarts to itself. -/
theorem restart_restart {posW accW outW : Nat} (k : Params) (s : State.At posW accW outW) :
    (s.restart k).restart k = s.restart k := rfl

/-- R29, R132: what a command stream makes a block observe depends on `step` and the words observed before alone. -/
theorem runCommands_observed_congr (is : List Instr) {s t : State} (hs : CommandInv s) (ht : CommandInv t)
    (hsv : s.rspValid = false) (htv : t.rspValid = false) (hstep : s.step = t.step) (hobs : s.observed = t.observed) :
    ∃ u w, runCommands block is s = .next u ∧ runCommands block is t = .next w ∧ u.observed = w.observed := by
  obtain ⟨u, hu, -, hu'⟩ := streamResponsesAreTheClosedForm is s hs hsv
  obtain ⟨w, hw, -, hw'⟩ := streamResponsesAreTheClosedForm is t ht htv
  exact ⟨u, w, hu, hw, by rw [hu', hw', hstep, hobs]⟩

/-- Settles O21: the responses of a stream are the closed form's, which reads `step` alone, and RESET keeps `step`. -/
theorem resetResult : Obligations.ResetResult := by
  intro s
  obtain ⟨hsurroundings, hresponse⟩ := restart_frame s
  refine ⟨_, exec_reset s, rfl, rfl, rfl, rfl, rfl, rfl, hsurroundings, hresponse, ?_, fun hs hv is => ?_⟩
  · rw [exec_reset, restart_restart]
  · exact runCommands_observed_congr is hs (commandInv_restart hs.stepLegal) hv hv rfl rfl

/-- R85: a backward miss shifts the cache and rewinds. -/
theorem startMiss_of_lt {posW accW outW : Nat} (k : Params) {p : BitVec posW} {s : State.At posW accW outW}
    (h : p < s.lastPos) : s.startMiss k p = s.shiftCache.rewind k := if_pos h

/-- Settles O22. -/
theorem setwaveResetIsReset : Obligations.SetwaveResetIsReset := by
  refine ⟨fun arg s => ?_, fun p s hp => ?_⟩
  · rw [exec_setwave, exec_reset, State.At.setStep]
  · rw [startMiss_of_lt block hp]
    exact ⟨rfl, rfl, rfl, rfl, rfl, rfl⟩

end Sys2Proof.Proofs
end

section
/-! What an edge does to `lastPos` (spec/40_variant_selection.md R75, 41_position_query.md R87, R90). -/

namespace Sys2Proof.Proofs

open Sys2Proof.Machine Sys2Proof.Laws
open Config (block Params)

variable {argW posW accW outW : Nat}

/-- R84, R85: what precedes a walk leaves `lastPos` or sets it to 0. -/
theorem startMiss_lastPos (k : Params) (p : BitVec posW) (s : State.At posW accW outW) :
    (s.startMiss k p).lastPos = s.lastPos ∨ (s.startMiss k p).lastPos = 0#posW := by
  rcases startMiss_cases k p s with ⟨-, e⟩ | ⟨-, e⟩ <;> rw [e]
  · exact .inr rfl
  · exact .inl rfl

/-- R126: the edge that accepts a GET takes no walk step, so it leaves `lastPos` or sets it to 0. -/
theorem acceptGet_lastPos (k : Params) (arg : BitVec argW) (s : State.At posW accW outW) :
    (acceptGet k arg s).lastPos = s.lastPos ∨ (acceptGet k arg s).lastPos = 0#posW := by
  rw [acceptGet]
  split_ifs
  · exact .inl rfl -- the `lastPos` entry answers
  · exact .inl rfl -- the `prevPos` entry answers
  · exact startMiss_lastPos k _ s -- a miss with nothing to walk
  · exact startMiss_lastPos k _ s -- a miss that goes to WALK

/-- R125, R126: the edge that accepts a command leaves `lastPos` or sets it to 0. -/
theorem acceptEdge_lastPos {k : Params} {i : Instr} {s t : State.At posW accW outW} (he : acceptEdge k i s = .next t) :
    t.lastPos = s.lastPos ∨ t.lastPos = 0#posW := by
  cases i with
  | setwave arg => cases he; exact .inr rfl
  | get arg => cases he; exact acceptGet_lastPos k _ s
  | reset => cases he; exact .inr rfl

/-- R127: an edge in WALK advances `lastPos` by one and `acc` by one walk step, at the target too. -/
theorem walkEdge_advances (k : Params) (s : State.At posW accW outW) :
    (walkEdge k s).lastPos = s.lastPos + 1#posW ∧ (walkEdge k s).acc = nx k s.step s.acc := by
  rcases walkEdge_cases k s with ⟨-, e⟩ | ⟨-, e⟩ <;> rw [e] <;> exact ⟨rfl, rfl⟩

/-- R87, R128: an edge at which nothing is accepted leaves `lastPos` or is a walk edge, which advances it. -/
theorem plainEdge_lastPos (k : Params) (p : Pins) (s : State.At posW accW outW) :
    (plainEdge k p s).lastPos = s.lastPos ∨
    (s.fsm = .walk ∧ (plainEdge k p s).lastPos = s.lastPos + 1#posW ∧ (plainEdge k p s).acc = nx k s.step s.acc) := by
  rw [plainEdge]
  split_ifs with hwalk
  · refine .inr ⟨hwalk, ?_⟩
    have hadvances := walkEdge_advances k (responseEdge p s)
    rcases responseEdge_cases p s with ⟨-, -, e⟩ | ⟨-, e⟩ <;> rw [e] at hadvances ⊢ <;> exact hadvances
  · rcases responseEdge_cases p s with ⟨-, -, e⟩ | ⟨-, e⟩ <;> rw [e] <;> exact .inl rfl

/-- Settles O45, by the cases of a clock edge. -/
theorem onlyTheWalkAdvancesLastPos : Obligations.OnlyTheWalkAdvancesLastPos := by
  intro p s t he
  rcases clockEdge_cases block p s with ⟨-, e⟩ | ⟨-, i, -, e⟩ | ⟨-, -, e⟩ | ⟨-, -, e⟩ <;> rw [e] at he
  · cases he
    exact .inr (.inl rfl)
  · rcases acceptEdge_lastPos he with hkeep | hzero
    · exact .inl hkeep
    · exact .inr (.inl hzero)
  · cases he
  · cases he
    rcases plainEdge_lastPos block p (s.sampleRst false) with hkeep | hwalk
    · exact .inl hkeep
    · exact .inr (.inr hwalk)

end Sys2Proof.Proofs
end

section
/-! The walk step, the syncs and the quantizer on numbers (spec/41_position_query.md R86, R88, R89, R91, R92). -/

namespace Sys2Proof.Proofs

open Sys2Proof.Machine Sys2Proof.Laws Sys2Proof.Safety
open Config (block Params)

/-! ### The walk step -/

/-- R86: the walk step on numbers, the sum taken modulo 2^32. -/
theorem nx_toNat_wrapping (s a : Word) :
    (nx block s a).toNat = if 2 ^ 31 ≤ (a + s).toNat then 0 else (a + s).toNat := by
  rw [nx, apply_ite BitVec.toNat, if_congr (syncEvent_iff s a) rfl rfl]
  rfl

/-- Settles O28. -/
theorem walkStepSyncsAtBit31 : Obligations.WalkStepSyncsAtBit31 := by
  intro s a
  rw [← BitVec.toNat_add]
  exact ⟨syncEvent_iff s a, nx_toNat_wrapping s a⟩

/-- R21, R88: a legal step added to an accumulator below 2^31 stays well below 2^32. -/
theorem acc_add_step_lt {s a : Word} (hs : LegalStep block s) (ha : a.toNat < 2 ^ 31) : a.toNat + s.toNat < 2 ^ 31 + 2 ^ 27 := by
  obtain ⟨-, hlt, -⟩ := legalStep_bounds hs
  omega

/-- R88: for these the bit-31 test is the integer test. -/
theorem syncEvent_iff_of_legal {s a : Word} (hs : LegalStep block s) (ha : a.toNat < 2 ^ 31) :
    syncEvent block s a = true ↔ 2 ^ 31 ≤ a.toNat + s.toNat := by
  have hsum := acc_add_step_lt hs ha
  rw [syncEvent_iff, BitVec.toNat_add_of_lt (by omega)]

/-- Settles O29. -/
theorem walkSumNeverWraps : Obligations.WalkSumNeverWraps := by
  refine ⟨fun s a hs ha => ⟨acc_add_step_lt hs ha, syncEvent_iff_of_legal hs ha, nx_toNat hs ha⟩, fun s hs => ?_⟩
  have hsum := acc_add_step_lt hs.stepLegal hs.accBelowSync
  omega

/-! ### The syncs of a walk from 0 -/

/-- R91: walk step n + 1 syncs exactly where the position it reaches is a multiple of the period. -/
theorem syncEvent_accAfter_iff {s : Word} (hs : LegalStep block s) (n : Nat) :
    syncEvent block s (accAfter block s n) = true ↔ period block s ∣ n + 1 := by
  obtain ⟨hpos, -, -⟩ := legalStep_bounds hs
  have hmod : n % period block s < period block s := Nat.mod_lt n (period_pos hpos)
  have hnext : closedForm block s n + s.toNat = (n % period block s + 1) * s.toNat := (Nat.succ_mul _ _).symm
  calc syncEvent block s (accAfter block s n) = true
      ↔ 2 ^ 31 ≤ (n % period block s + 1) * s.toNat := by
        rw [syncEvent_iff_of_legal hs (accAfter_lt hs n), accAfter_toNat hs, hnext]
    _ ↔ n % period block s + 1 = period block s := by
        have hreach := lt_period_iff hpos (n % period block s + 1)
        omega
    _ ↔ period block s ∣ n + 1 := by
        rw [Nat.dvd_iff_mod_eq_zero, ← Nat.mod_add_mod]
        refine ⟨fun h => by rw [h, Nat.mod_self], fun h => ?_⟩
        have hdvd := Nat.le_of_dvd (Nat.succ_pos _) (Nat.dvd_of_mod_eq_zero h)
        omega

/-- R91: n walk steps from 0 sync once a period. -/
theorem syncCount_eq {s : Word} (hs : LegalStep block s) (n : Nat) : syncCount block s n = n / period block s := by
  induction n with
  | zero => rw [syncCount, Nat.zero_div]
  | succ n ih =>
    have hsync := syncEvent_accAfter_iff hs n
    rw [syncCount, ih, Nat.succ_div]
    by_cases h : period block s ∣ n + 1
    · rw [if_pos h, hsync.mpr h, Bool.toNat_true]
    · rw [if_neg h, Bool.eq_false_iff.mpr (mt hsync.mp h), Bool.toNat_false]

/-- R89, R91: n walk steps sync at least k times exactly where `n / k` steps already reach 2^31. -/
theorem le_syncCount_iff {s : Word} (hs : LegalStep block s) {k : Nat} (hk : 0 < k) (n : Nat) :
    k ≤ syncCount block s n ↔ 2 ^ 31 ≤ n / k * s.toNat := by
  obtain ⟨hpos, -, -⟩ := legalStep_bounds hs
  rw [syncCount_eq hs, Nat.le_div_iff_mul_le (period_pos hpos), Nat.mul_comm, ← Nat.le_div_iff_mul_le hk, ← not_lt,
    lt_period_iff hpos, not_lt]

/-- R91: a larger step syncs no less often. -/
theorem syncCount_mono {s u : Word} (hs : LegalStep block s) (hu : LegalStep block u) (h : s.toNat ≤ u.toNat) (n : Nat) :
    syncCount block s n ≤ syncCount block u n := by
  rcases Nat.eq_zero_or_pos (syncCount block s n) with h0 | hk
  · rw [h0]
    exact Nat.zero_le _
  · exact (le_syncCount_iff hu hk n).mpr (((le_syncCount_iff hs hk n).mp le_rfl).trans (Nat.mul_le_mul_left _ h))

/-- R21: the step size of a variant in range is legal. -/
theorem legalStep_stepSize {v : Nat} (hv : v ≤ 59) : LegalStep block (stepSize block v : Word) :=
  ⟨v, Nat.lt_succ_of_le hv, rfl⟩

/-- Settles O40: each count is between two of the thresholds of `le_syncCount_iff`, which are linear in the variant. -/
theorem syncCountsByVariant : Obligations.SyncCountsByVariant := by
  refine ⟨fun s hs n => ⟨syncEvent_accAfter_iff hs n, syncCount_eq hs n⟩, fun v hv => ?_, fun u v huv hv => ?_⟩
  · have hreach (k : Nat) (hk : 0 < k) : k ≤ syncCount block (stepSize block v : Word) 127 ↔
        2 ^ 31 ≤ 127 / k * (16777216 + 1441792 * v) := by
      rw [le_syncCount_iff (legalStep_stepSize hv) hk, stepSize_toNat hv]
    have h1 := hreach 1 (by decide)
    have h2 := hreach 2 (by decide)
    have h3 := hreach 3 (by decide)
    have h4 := hreach 4 (by decide)
    have h5 := hreach 5 (by decide)
    have h6 := hreach 6 (by decide)
    split_ifs <;> omega
  · refine syncCount_mono (legalStep_stepSize (huv.trans hv)) (legalStep_stepSize hv) ?_ 127
    rw [stepSize_toNat (huv.trans hv), stepSize_toNat hv]
    omega

/-! ### The quantizer -/

/-- R92: the quantizer subtracts 2^30 exactly. -/
theorem quantize_toInt {a : Word} (ha : a.toNat < 2 ^ 31) : (quantize block a : Word).toInt = (a.toNat : Int) - 2 ^ 30 := by
  rw [quantize, toS, BitVec.toInt_ofInt, Config.block_outOffsetWord, Int.bmod_eq_of_le] <;> omega

/-- R92: below 2^31, bit 30 tells the accumulators from 2^30 on. -/
theorem getLsbD_thirty {a : Word} (ha : a.toNat < 2 ^ 31) : a.getLsbD 30 = decide (2 ^ 30 ≤ a.toNat) := by
  rw [BitVec.getLsbD, Nat.testBit_eq_decide_div_mod_eq, decide_eq_decide]
  omega

/-- R92: the word of the bit form, its two upper bits above 30 lower ones. -/
theorem quantizeBits_toNat (a : Word) :
    (quantizeBits a).toNat = (!a.getLsbD 30).toNat * 3 * 2 ^ 30 + a.toNat % 2 ^ 30 := by
  have hlow : a.toNat % 2 ^ 30 < 2 ^ 30 := Nat.mod_lt _ (by decide)
  have hhigh (b : Bool) : (BitVec.ofBool b ++ BitVec.ofBool b).toNat = b.toNat * 3 := by cases b <;> rfl
  rw [quantizeBits, BitVec.toNat_append, hhigh, BitVec.extractLsb'_toNat, Nat.shiftRight_zero,
    ← Nat.shiftLeft_add_eq_or_of_lt hlow, Nat.shiftLeft_eq]

/-- R92: the two forms of the quantizer agree. -/
theorem quantize_eq_quantizeBits {a : Word} (ha : a.toNat < 2 ^ 31) : quantize block a = quantizeBits a := by
  apply BitVec.eq_of_toNat_eq
  rw [quantizeBits_toNat, getLsbD_thirty ha, quantize, toS, BitVec.toNat_ofInt, Config.block_outOffsetWord]
  by_cases h : 2 ^ 30 ≤ a.toNat
  · rw [decide_eq_true h, Bool.not_true, Bool.toNat_false]
    omega
  · rw [decide_eq_false h, Bool.not_false, Bool.toNat_true]
    omega

/-- Settles O30: an accumulator is read back from its output as an integer. -/
theorem quantizerIsExact : Obligations.QuantizerIsExact := by
  refine ⟨fun a ha => ?_, fun a b ha hb h => ?_⟩
  · have hexact := quantize_toInt ha
    exact ⟨hexact, by omega, by omega, quantize_eq_quantizeBits ha⟩
  · have ha' := quantize_toInt ha
    have hb' := quantize_toInt hb
    rw [h] at ha'
    exact BitVec.eq_of_toNat_eq (by omega)

end Sys2Proof.Proofs
end

section
/-! The paths of a GET (spec/41_position_query.md R80 to R87, R94, R96, R97): its position, a hit on either entry, a miss
and its walk. Of the registers these statements ask nothing, but where they say what an entry holds. -/

namespace Sys2Proof.Proofs

open Sys2Proof.Machine Sys2Proof.Laws Sys2Proof.Safety
open Config (block Params)

variable {argW posW accW outW : Nat}

/-! ### The position -/

/-- R82: the position is the argument modulo 128, as integers. -/
theorem positionOf_eq_emod (arg : Word) : ((positionOf arg : Position).toNat : Int) = arg.toInt % 128 := by
  rw [positionOf_toNat, Int.toNat_of_nonneg (Int.emod_nonneg _ (by decide))]

/-- R82: truncation to 32 bits keeps an integer modulo 128, for 2^32 is a multiple of 128. -/
theorem toS32_toInt_emod (x : Int) : (toS32 x).toInt % 128 = x % 128 := by
  rw [toS32, toS, BitVec.toInt_ofInt, Int.bmod_def]
  split <;> omega

/-- R82: GET reads nothing of its argument but the position. -/
theorem getEffect_congr (k : Params) {a b : BitVec argW} (h : (positionOf a : BitVec posW) = positionOf b)
    (s : State.At posW accW outW) : getEffect k a s = getEffect k b s := by
  simp only [getEffect, h]

/-- Settles O24. -/
theorem positionIsArgumentModulo128 : Obligations.PositionIsArgumentModulo128 := by
  refine ⟨positionOf_eq_emod, fun x => ?_, fun a b s h => ?_⟩
  · rw [positionOf_eq_emod, toS32_toInt_emod]
  · have hpos : (positionOf a : Position) = positionOf b :=
      BitVec.eq_of_toNat_eq (by rw [positionOf_toNat, positionOf_toNat, h])
    rw [exec_get, exec_get, getEffect_congr block hpos]

/-! ### Hits -/

/-- R83: a hit on the newer entry. -/
theorem getEffect_of_lastPos (k : Params) {arg : BitVec argW} {s : State.At posW accW outW}
    (h : positionOf arg = s.lastPos) : getEffect k arg s = s.respond s.lastVal := if_pos h

/-- R83: a hit on the older entry. -/
theorem getEffect_of_prevPos (k : Params) {arg : BitVec argW} {s : State.At posW accW outW}
    (hlast : positionOf arg ≠ s.lastPos) (hprev : positionOf arg = s.prevPos) :
    getEffect k arg s = s.respond s.prevVal := (if_neg hlast).trans (if_pos hprev)

/-- R84 to R87: a miss. -/
theorem getEffect_of_miss (k : Params) {arg : BitVec argW} {s : State.At posW accW outW}
    (hlast : positionOf arg ≠ s.lastPos) (hprev : positionOf arg ≠ s.prevPos) :
    getEffect k arg s = (missEffect k (positionOf arg) s).respond (missEffect k (positionOf arg) s).lastVal :=
  (if_neg hlast).trans (if_neg hprev)

/-- Settles O25. -/
theorem cacheHitResponds : Obligations.CacheHitResponds := by
  refine ⟨fun arg s h => ?_, fun arg s hlast hprev => ?_, fun s hs h => ?_⟩
  · rw [exec_get, getEffect_of_lastPos block h]
    rfl
  · rw [exec_get, getEffect_of_prevPos block hlast hprev]
    rfl
  · obtain ⟨-, hwave⟩ := (commandInv_iff s).mp hs
    rw [hwave.lastVal_eq, hwave.prevVal_eq, h]

/-! ### Misses and the walk -/

/-- R85: a miss that does not go backward shifts the cache and no more. -/
theorem startMiss_of_not_lt (k : Params) {p : BitVec posW} {s : State.At posW accW outW} (h : ¬ p < s.lastPos) :
    s.startMiss k p = s.shiftCache := if_neg h

/-- R85, R87: the accumulator that a backward miss walks to, from 0. -/
theorem missEffect_acc_of_lt (k : Params) {p : BitVec posW} {s : State.At posW accW outW} (h : p < s.lastPos) :
    (missEffect k p s).acc = (nx k s.step)^[p.toNat] 0#accW := by
  rw [missEffect_eq, startMiss_of_lt k h, State.At.rewind_lastPos, State.At.rewind_acc, BitVec.toNat_ofNat,
    Nat.zero_mod, Nat.sub_zero]

/-- R87: the accumulator that a forward miss walks to, from `acc`. -/
theorem missEffect_acc_of_gt (k : Params) {p : BitVec posW} {s : State.At posW accW outW} (h : s.lastPos < p) :
    (missEffect k p s).acc = (nx k s.step)^[p.toNat - s.lastPos.toNat] s.acc := by
  rw [missEffect_eq, startMiss_of_not_lt k (BitVec.lt_asymm h), State.At.shiftCache_lastPos, State.At.shiftCache_acc]

/-- R94: a miss fills the newer entry with the output of the accumulator it has walked to. -/
theorem missEffect_lastVal (k : Params) (p : BitVec posW) (s : State.At posW accW outW) :
    (missEffect k p s).lastVal = quantize k (missEffect k p s).acc := by
  rw [missEffect_eq]

/-- R84, R87: the positions of both entries after a miss, and the older entry's word. -/
theorem missEffect_shifts (k : Params) (p : BitVec posW) (s : State.At posW accW outW) :
    (missEffect k p s).lastPos = p ∧ (missEffect k p s).prevPos = s.lastPos ∧
    (missEffect k p s).prevVal = s.lastVal := by
  rw [missEffect_eq]
  exact ⟨rfl, rfl, rfl⟩

/-- R84 to R87: a miss leaves `step` and the host's side alone. -/
theorem missEffect_frame (p : Position) (s : State) :
    (missEffect block p s).step = s.step ∧ SameHostSide s (missEffect block p s) := by
  rw [missEffect_eq]
  exact ⟨rfl, rfl, rfl, rfl, rfl, rfl⟩

/-- R27, R126: a miss with nothing to walk leaves the hidden target alone. -/
theorem missEffect_sameTarget {p : Position} {s : State} (h : walkLength p s = 0) :
    SameTarget s (missEffect block p s) := by
  rw [missEffect_eq, if_pos h, if_pos h]
  exact ⟨rfl, rfl⟩

/-- Settles O26. -/
theorem cacheMissWalksAndFills : Obligations.CacheMissWalksAndFills := by
  intro arg s hlast hprev
  obtain ⟨hlastPos, hprevPos, hprevVal⟩ := missEffect_shifts block (positionOf arg) s
  obtain ⟨hstep, hhost⟩ := missEffect_frame (positionOf arg) s
  refine ⟨_, exec_get arg s, ?_⟩
  rw [getEffect_of_miss block hlast hprev]
  exact ⟨hprevPos, hprevVal, hlastPos, missEffect_acc_of_lt block, missEffect_acc_of_gt block,
    missEffect_lastVal block _ s, rfl, rfl, hstep, hhost, missEffect_sameTarget⟩

/-- R97: a hit walks nothing. -/
theorem walkLength_of_hit {p : BitVec posW} {s : State.At posW accW outW} (h : p = s.lastPos ∨ p = s.prevPos) :
    walkLength p s = 0 := by
  by_contra hne
  obtain ⟨hlast, hprev⟩ := miss_of_walkLength_ne_zero hne
  exact h.elim hlast hprev

/-- R87, R97: the walk loop of a miss takes as many walk steps as the walk length says. -/
theorem walkTo_startMiss (k : Params) {p : BitVec posW} {s : State.At posW accW outW} (hlast : p ≠ s.lastPos)
    (hprev : p ≠ s.prevPos) :
    (s.startMiss k p).walkTo k p = (State.At.walkOnce k)^[walkLength p s] (s.startMiss k p) := by
  have hp := p.isLt
  rw [walkLength_miss k p s hlast hprev]
  exact walkLoop_eq k p _ _ (startMiss_le k p s) (by simp only [Config.tableLen]; omega)

/-- Settles O27. -/
theorem walkLengthByPath : Obligations.WalkLengthByPath := by
  intro p s
  refine ⟨walkLength_of_hit, fun hlast hprev hlt => ?_, fun hlast hprev hlt => ?_, ?_, walkTo_startMiss block⟩
  · rw [walkLength_miss block p s hlast hprev, startMiss_of_not_lt block (BitVec.lt_asymm hlt),
      State.At.shiftCache_lastPos]
  · rw [walkLength_miss block p s hlast hprev, startMiss_of_lt block hlt, State.At.rewind_lastPos]
    rfl
  · have hle := walkLength_le p s
    have hp : p.toNat < 128 := p.isLt
    omega

/-! ### The same positions again -/

/-- R96: the position that a GET has answered hits, and its answer stands on the port already. -/
theorem getEffect_getEffect (k : Params) (arg : BitVec argW) (s : State.At posW accW outW) :
    getEffect k arg (getEffect k arg s) = getEffect k arg s := by
  rcases getEffect_cases k arg s with ⟨hlast, e⟩ | ⟨hlast, hprev, e⟩ | ⟨-, -, e⟩ <;> rw [e]
  · exact getEffect_of_lastPos k (s := s.respond s.lastVal) hlast
  · exact getEffect_of_prevPos k (s := s.respond s.prevVal) hlast hprev
  · obtain ⟨hlastPos, -, -⟩ := missEffect_shifts k (positionOf arg) s
    exact getEffect_of_lastPos k (s := (missEffect k (positionOf arg) s).respond _) hlastPos.symm

/-- Settles O35. -/
theorem repeatedGetChangesNothing : Obligations.RepeatedGetChangesNothing := by
  intro a b s h
  refine ⟨_, exec_get a s, ?_⟩
  rw [exec_get, ← getEffect_congr block h, getEffect_getEffect]

/-- R83: what the cache answers at one of its two positions. -/
def cachedWord (s : State) (p : Position) : Word := if p = s.lastPos then s.lastVal else s.prevVal

/-- R83: a GET of a cached position responds the cached word and does nothing else. -/
theorem getEffect_of_cached {arg : Word} {s : State} (h : positionOf arg = s.lastPos ∨ positionOf arg = s.prevPos) :
    getEffect block arg s = s.respond (cachedWord s (positionOf arg)) := by
  by_cases hlast : positionOf arg = s.lastPos
  · rw [getEffect_of_lastPos block hlast, cachedWord, if_pos hlast]
  · rw [getEffect_of_prevPos block hlast (h.resolve_left hlast), cachedWord, if_neg hlast]

/-- R45, R83: the transaction of a GET of a cached position. -/
theorem transact_of_cached {arg : Word} {s : State} (h : positionOf arg = s.lastPos ∨ positionOf arg = s.prevPos) :
    transact block (.get arg) s = .next (s.respond (cachedWord s (positionOf arg))).takeResponse := by
  have hexec : exec (.get arg) s = .next (s.respond (cachedWord s (positionOf arg))) := by
    rw [exec_get, getEffect_of_cached h]
  exact transact_of_response hexec rfl

/-- Settles O36, by induction on the queries: each transaction leaves the cache as it was for the next one. -/
theorem cachedPositionsHitForever : Obligations.CachedPositionsHitForever := by
  intro args
  induction args with
  | nil => exact fun s _ _ => ⟨s, rfl, ⟨rfl, rfl, rfl, rfl, rfl, rfl⟩, (List.append_nil _).symm⟩
  | cons arg args ih =>
    intro s _ hcached
    obtain ⟨harg, hargs⟩ := List.forall_mem_cons.mp hcached
    obtain ⟨t, hrun, hregs, hobserved⟩ := ih (s.respond (cachedWord s (positionOf arg))).takeResponse rfl hargs
    refine ⟨t, ?_, hregs, ?_⟩
    · rw [List.map_cons, runCommands, transact_of_cached harg]
      exact hrun
    · rw [hobserved, State.At.takeResponse_observed, List.append_assoc]
      rfl

end Sys2Proof.Proofs
end

section
/-! The words that GET answers (spec/41_position_query.md R89, R93, R95, R96, R98), from every state with the invariants. -/

namespace Sys2Proof.Proofs

open Sys2Proof.Machine Sys2Proof.Laws Sys2Proof.Safety
open Config (block Params)

/-- R89, R92: a GET's response as an integer is the accumulator's closed form at its position, less 2^30. -/
theorem getEffect_toInt {s : State} (hs : CommandInv s) (arg : Word) :
    (getEffect block arg s).rspData.toInt = (closedForm block s.step (positionOf arg : Position).toNat : Int) - 2 ^ 30 := by
  rw [getEffect_answers hs arg, quantize_toInt (accAfter_lt hs.stepLegal _), accAfter_toNat hs.stepLegal]

/-! ### The closed form -/

/-- R89: the period of a variant's step, on numbers. -/
theorem period_stepSize {v : Nat} (hv : v ≤ 59) :
    period block (stepSize block v : Word) = (2 ^ 31 + (16777216 + 1441792 * v) - 1) / (16777216 + 1441792 * v) := by
  rw [period, stepSize_toNat hv]

/-- Settles O39. -/
theorem accumulatorClosedForm : Obligations.AccumulatorClosedForm := by
  refine ⟨fun s hs => ⟨?_, accAfter_toNat hs⟩, fun arg s hs => ⟨_, exec_get arg s, ?_⟩, ?_, ?_, ?_⟩
  · obtain ⟨hpos, -, -⟩ := legalStep_bounds hs
    exact ⟨not_lt.mp fun h => lt_irrefl _ ((lt_period_iff hpos _).mpr h), fun n => (lt_period_iff hpos n).mp⟩
  · rw [getEffect_answers hs arg, closedFormWord_eq hs.stepLegal]
  · exact period_stepSize (v := 0) (by decide)
  · exact period_stepSize (v := 1) (by decide)
  · exact period_stepSize (v := 59) (by decide)

/-! ### The range of the responses -/

/-- R28 S1, S6: the closed form is below 2^31, and a multiple of 2^17. -/
theorem closedForm_bounds {s : Word} (hs : LegalStep block s) (n : Nat) :
    closedForm block s n < 2 ^ 31 ∧ 2 ^ 17 ∣ closedForm block s n := by
  rw [← accAfter_toNat hs]
  exact ⟨accAfter_lt hs n, accAfter_dvd hs n⟩

/-- R89: every waveform starts at 0. -/
theorem closedForm_zero {accW : Nat} (k : Params) (s : BitVec accW) : closedForm k s 0 = 0 := by
  rw [closedForm, Nat.zero_mod, Nat.zero_mul]

/-- R92, R93: the response of an accumulator stands for 64 table units less. -/
theorem realValue_of_toInt {w a : Word} (h : w.toInt = (a.toNat : Int) - 2 ^ 30) :
    realValue block w = tableUnits block a - 64 := by
  rw [realValue, tableUnits, h]
  push_cast
  ring

/-- R93: a multiple of 2^17 that the quantizer has moved is a multiple of 2^-7 table units. -/
theorem realValue_of_multiple {w : Word} {m : Nat} (h : w.toInt = ((2 ^ 17 * m : Nat) : Int) - 2 ^ 30) :
    realValue block w = (((m : Int) - 8192 : Int) : Rat) / 128 := by
  rw [realValue, h]
  push_cast
  ring

/-- Settles O31. -/
theorem responseRealValue : Obligations.ResponseRealValue := by
  intro arg s hs
  have hword := getEffect_toInt hs arg
  obtain ⟨hlt, m, hm⟩ := closedForm_bounds hs.stepLegal (positionOf arg : Position).toNat
  refine ⟨_, exec_get arg s, realValue_of_toInt ?_, (m : Int) - 8192, by omega, by omega, realValue_of_multiple ?_⟩
  · rw [hword, accAfter_toNat hs.stepLegal]
  · rw [hword, hm]

/-- R96, R98: a GET of position 0 answers the least word. -/
theorem getEffect_toInt_of_position_zero {s : State} (hs : CommandInv s) {arg : Word} (h : arg.toInt % 128 = 0) :
    (getEffect block arg s).rspData.toInt = -2 ^ 30 := by
  rw [getEffect_toInt hs, positionOf_toNat, h, Int.toNat_zero, closedForm_zero]
  rfl

/-- R95: at variant 23, whose period is 44, the accumulator of position 43 is the largest there is. -/
theorem closedForm_variant_23 : closedForm block (stepSize block 23 : Word) 43 = 0x7FFE0000 := by
  rw [closedForm, period_stepSize (by decide), stepSize_toNat (by decide)]
  rfl

/-- Settles O32. -/
theorem responseRange : Obligations.ResponseRange := by
  refine ⟨fun arg s hs => ⟨_, exec_get arg s, ?_⟩,
    fun arg s hs h => ⟨_, exec_get arg s, getEffect_toInt_of_position_zero hs h⟩, 43#7, ?_⟩
  · have hword := getEffect_toInt hs arg
    obtain ⟨hlt, hdvd⟩ := closedForm_bounds hs.stepLegal (positionOf arg : Position).toNat
    omega
  · have hlegal : LegalStep block (stepSize block 23 : Word) := legalStep_stepSize (by decide)
    rw [quantize_toInt (accAfter_lt hlegal _), accAfter_toNat hlegal]
    exact congrArg (fun n : Nat => (n : Int) - 2 ^ 30) closedForm_variant_23

/-! ### Variant 0 and position 0 -/

/-- R96: at variant 0 the table has one period, so its closed form is the position, in table units. -/
theorem closedForm_variant_zero (p : Position) : closedForm block (0x01000000#32) p.toNat = p.toNat * 2 ^ 24 := by
  have hperiod : period block (0x01000000#32) = 128 := period_stepSize (v := 0) (by decide)
  rw [closedForm, hperiod, Nat.mod_eq_of_lt p.isLt]
  rfl

/-- Settles O37. -/
theorem variantZeroIsExact : Obligations.VariantZeroIsExact := by
  intro arg s hs hstep
  refine ⟨_, exec_get arg s, ?_⟩
  rw [getEffect_toInt hs, hstep, closedForm_variant_zero, ← positionOf_eq_emod]
  push_cast
  ring

/-- Settles O38: its second clause, from any state, is the backward miss, whose walk from 0 to 0 has no step. -/
theorem wrapToPositionZero : Obligations.WrapToPositionZero := by
  refine ⟨fun arg s hs h => ⟨Nat.le_zero.mp (walkLength_le 0#7 s), _, exec_get arg s, ?_⟩,
    fun arg s h hlast hprev => ?_⟩
  · rw [getEffect_answers hs, h]
    exact quantize_zero block
  · have hlt : positionOf arg < s.lastPos := by rw [h, hlast]; decide
    obtain ⟨hne, hne'⟩ : positionOf arg ≠ s.lastPos ∧ positionOf arg ≠ s.prevPos := by rw [h, hlast, hprev]; decide
    obtain ⟨hlastPos, hprevPos, hprevVal⟩ := missEffect_shifts block (positionOf arg) s
    have hacc := missEffect_acc_of_lt block hlt
    refine ⟨by simp [getPath, hlast, hprev], _, exec_get arg s, ?_⟩
    rw [getEffect_of_miss block hne hne']
    refine ⟨?_, hlastPos.trans h, hprevPos.trans hlast, hprevVal⟩
    rw [h] at hacc
    rw [State.At.respond_rspData, missEffect_lastVal, h, hacc]
    exact quantize_zero block

end Sys2Proof.Proofs
end

section
/-! The idle block with nothing driven (spec/60_exceptions.md R111, 70_reset_and_hazards.md R127, R128). -/

namespace Sys2Proof.Proofs

open Sys2Proof.Machine Sys2Proof.Laws
open Config (block Params)

variable {posW accW outW : Nat}

/-- R53: a host that drives nothing has no command accepted. -/
theorem accepts_quietPins (s : State.At posW accW outW) : accepts quietPins s = false := rfl

/-- R128: without `rsp_ready` no response is taken, whether or not one waits. -/
theorem responseEdge_of_not_rspReady {p : Pins} (h : p.rspReady = false) (s : State.At posW accW outW) :
    responseEdge p s = s := by
  rcases responseEdge_cases p s with ⟨-, hready, -⟩ | ⟨-, e⟩
  · exact absurd hready (by simp [h])
  · exact e

/-- R127, R128: without `rsp_ready`, a plain edge of an idle block does nothing. -/
theorem plainEdge_of_idle_not_rspReady (k : Params) {p : Pins} {s : State.At posW accW outW} (hidle : s.fsm = .idle)
    (h : p.rspReady = false) : plainEdge k p s = s := by
  have hwalk : s.fsm ≠ .walk := by simp [hidle]
  rw [plainEdge, if_neg hwalk, responseEdge_of_not_rspReady h]

/-- R111: a clock edge with nothing driven leaves an idle block out of reset as it is, for all constants and widths. -/
theorem clockEdge_quietPins (k : Params) {s : State.At posW accW outW} (hidle : s.fsm = .idle) (hq : s.rstQ = false) :
    clockEdge k quietPins s = .next s := by
  rw [clockEdge_of_not_accepts k rfl (accepts_quietPins s) hq, plainEdge_of_idle_not_rspReady k hidle rfl]

/-- With no sample lined up there is none to move on to (log entry 2). -/
theorem popInputs_of_inputs_nil {s : State.At posW accW outW} (h : s.inputs = []) : s.popInputs = s := by
  rw [State.At.popInputs, h, List.tail_nil, ← h]

/-- A step with no sample lined up is a clock edge with nothing driven (log entries 2 and 3). -/
theorem step_of_inputs_nil {s : State} (h : s.inputs = []) : step s = clockEdge block quietPins s := by
  have hpins : nextPins s = quietPins := by rw [nextPins, h, List.headD_nil]
  rw [step, hpins, popInputs_of_inputs_nil h, stepOn, accepts_quietPins, if_neg Bool.false_ne_true]

/-- Settles O9: the step is a clock edge at which nothing is driven, and that edge keeps every field. -/
theorem idleBlockHoldsItsState : Obligations.IdleBlockHoldsItsState :=
  fun _ hinputs hidle hq => (step_of_inputs_nil hinputs).trans (clockEdge_quietPins block hidle hq)

end Sys2Proof.Proofs
end

section
/-! A run of clock edges that one GET occupies, for all constants and widths (spec/70_reset_and_hazards.md R124, R126,
R127, R129, R130): what every edge up to the end of its walk leaves. -/

namespace Sys2Proof.Proofs

open Sys2Proof.Machine Sys2Proof.Laws
open Config (Params)

variable {argW posW accW outW : Nat}

/-- A run of edges goes on from what its first edge leaves. -/
theorem runEdges_cons (k : Params) {p : Pins} (ps : List Pins) {s t : State.At posW accW outW}
    (h : clockEdge k p s = .next t) : runEdges k (p :: ps) s = runEdges k ps t := by
  rw [runEdges, h]

/-- R127: a run of edges at each of which the block is walking is its walk edges, whatever the host drives. -/
theorem runEdges_of_walking (k : Params) (ps : List Pins) (s : State.At posW accW outW)
    (hrst : ∀ q ∈ ps, q.rst = false) (hw : ∀ j, j < ps.length → Walking ((walkEdge k)^[j] s)) :
    runEdges k ps s = .next ((walkEdge k)^[ps.length] s) := by
  induction ps generalizing s with
  | nil => rfl
  | cons q ps ih =>
    obtain ⟨hq, hps⟩ := List.forall_mem_cons.mp hrst
    have hwalk : Walking s := hw 0 (Nat.succ_pos _)
    rw [runEdges_cons k ps (hwalk.clockEdge k hq), List.length_cons, Function.iterate_succ_apply]
    exact ih (walkEdge k s) hps fun j hj => by
      rw [← Function.iterate_succ_apply]
      exact hw (j + 1) (Nat.succ_lt_succ hj)

/-- R126, R127: the edges of a GET, up to the end of its walk, are its accepting edge and then walk edges. -/
theorem runEdges_get (k : Params) {p : Pins} {ps : List Pins} {s : State.At posW accW outW} {arg : Word}
    (ha : accepts p s = true) (hd : decode p.word = .ok (.get arg))
    (hlen : ps.length ≤ walkLength (positionOf (portArg k arg)) s) (hrst : ∀ q ∈ ps, q.rst = false) :
    runEdges k (p :: ps) s = .next ((walkEdge k)^[ps.length] (acceptGet k (portArg k arg) s)) := by
  obtain ⟨-, -, hready⟩ := (accepts_iff p s).mp ha
  rw [runEdges_cons k ps (clockEdge_of_accepts k ha hd)]
  exact runEdges_of_walking k ps _ hrst fun j hj =>
    walking_during_get k (portArg k arg) hready (Nat.lt_of_lt_of_le hj hlen)

/-- Settles O47: as many walk edges as the walk is long bring the accepting edge's state to the transaction's. -/
theorem getScheduleMatchesTransaction : Obligations.GetScheduleMatchesTransaction := by
  intro posW accW outW k p ps s arg ha hd hlen hrst
  obtain ⟨-, -, hready⟩ := (accepts_iff p s).mp ha
  refine ⟨getEffect k (portArg k arg) s, rfl, ?_⟩
  rw [runEdges_get k ha hd hlen.le hrst, hlen, walkEdge_iterate_acceptGet k (portArg k arg) hready]

/-- R84, R85: what precedes a walk keeps `step`. -/
@[simp] theorem startMiss_step (k : Params) (p : BitVec posW) (s : State.At posW accW outW) :
    (s.startMiss k p).step = s.step := by
  rcases startMiss_cases k p s with ⟨-, e⟩ | ⟨-, e⟩ <;> rw [e] <;> rfl

/-- R126, R127, R130: before its walk ends, a GET has shifted the cache, gone back to 0 if it must, set its target, and since
then taken one walk step an edge. -/
theorem walkEdge_iterate_acceptGet_of_lt (k : Params) (arg : BitVec argW) {s : State.At posW accW outW} {j : Nat}
    (hj : j < walkLength (positionOf arg) s) :
    (walkEdge k)^[j] (acceptGet k arg s) =
      (State.At.walkOnce k)^[j] ((s.startMiss k (positionOf arg)).startWalk (positionOf arg)) := by
  have h0 : walkLength (positionOf arg) s ≠ 0 := Nat.ne_zero_of_lt hj
  have hdist := startMiss_add_walkLength k h0
  rw [acceptGet_of_walkLength_ne_zero k arg s h0, walkEdge_iterate_of_lt]
  rw [State.At.startWalk_lastPos, State.At.startWalk_tgt]
  omega

/-- Settles O48: a block that is walking is not ready, and n walk steps write `acc` and `lastPos` alone. -/
theorem busyUntilTheWalkEnds : Obligations.BusyUntilTheWalkEnds := by
  rintro posW accW outW k pin ps s arg p ha hd rfl hlen hrst
  obtain ⟨-, -, hready⟩ := (accepts_iff pin s).mp ha
  have hwalking := walking_during_get k (portArg k arg) hready hlen
  have hstate := walkEdge_iterate_acceptGet_of_lt k (portArg k arg) hlen
  rw [Laws.walkOnce_iterate] at hstate
  have hdist := startMiss_add_walkLength k (Nat.ne_zero_of_lt hlen)
  refine ⟨_, runEdges_get k ha hd hlen.le hrst, hwalking.fsm_walk, ?_, hwalking.not_ready, hwalking.no_response, ?_, ?_, ?_⟩
  · rw [hstate, State.At.startWalk_tgt]
  · rw [hstate, State.At.startWalk_lastVal]
  · rw [hstate, State.At.startWalk_lastPos]
    exact toNat_add_ofNat _ (positionOf (portArg k arg)) _ (by omega)
  · rw [hstate, State.At.startWalk_step, State.At.startWalk_acc, startMiss_step]

end Sys2Proof.Proofs
end

section
/-! SETWAVE and RESET at one clock edge, and RESET beside hardware reset (spec/70_reset_and_hazards.md R118, R125). -/

namespace Sys2Proof.Proofs

open Sys2Proof.Machine Sys2Proof.Laws
open Config (block Params)

variable {posW accW outW : Nat}

/-- R125: from a ready block, the accepting edge of a command other than GET is its whole transaction and leaves the
block ready, for all constants and widths. -/
theorem acceptEdge_of_not_get (k : Params) {i : Instr} {s : State.At posW accW outW} (hi : opcodeOf i ≠ 2#2)
    (hs : cmdReady s = true) : ∃ t, acceptEdge k i s = .next t ∧ execAt k i s = .next t ∧ cmdReady t = true := by
  cases i with
  | setwave arg => exact ⟨_, rfl, rfl, hs⟩
  | get arg => exact absurd rfl hi
  | reset => exact ⟨_, rfl, rfl, hs⟩

/-- Settles O46. -/
theorem setwaveAndResetTakeOneEdge : Obligations.SetwaveAndResetTakeOneEdge := by
  intro p s i ha hd hi
  obtain ⟨-, -, hready⟩ := (accepts_iff p s).mp ha
  obtain ⟨t, hedge, hexec, ht⟩ := acceptEdge_of_not_get block hi hready
  exact ⟨t, (clockEdge_of_accepts block ha hd).trans hedge, (exec_eq_execAt i s).trans hexec, ht⟩

/-- R72, R115, R118: RESET writes to five registers what hardware reset writes to them. -/
theorem restart_agrees_with_hardwareReset (k : Params) (s : State.At posW accW outW) :
    (s.restart k).acc = (s.hardwareReset k).acc ∧ (s.restart k).lastPos = (s.hardwareReset k).lastPos ∧
    (s.restart k).prevPos = (s.hardwareReset k).prevPos ∧ (s.restart k).lastVal = (s.hardwareReset k).lastVal ∧
    (s.restart k).prevVal = (s.hardwareReset k).prevVal :=
  ⟨rfl, rfl, rfl, rfl, rfl⟩

/-- Settles O23: RESET is a restart, which keeps `step`, and an edge with `rst = 1` is hardware reset. -/
theorem resetVersusHardwareReset : Obligations.ResetVersusHardwareReset := by
  intro p s hr
  obtain ⟨hacc, hlastPos, hprevPos, hlastVal, hprevVal⟩ := restart_agrees_with_hardwareReset block s
  exact ⟨_, _, exec_reset s, clockEdge_of_rst block s hr, hacc, hlastPos, hprevPos, hlastVal, hprevVal,
    State.At.restart_step s block, State.At.hardwareReset_step s block, rfl, rfl⟩

end Sys2Proof.Proofs
end
